-- ==== Sys2Proof/Word.lean ====
section
/-! DEFINITION. The two word sizes of the core (spec R7, R13) and the type of a memory. -/

namespace Sys2Proof

/-- A byte, the unit of every register, memory cell and bus access (R13, R80). -/
abbrev Byte := BitVec 8

/-- A word: a register pair, the stack pointer, the program counter, an address (R7, R13). -/
abbrev Word := BitVec 16

/-- One memory array of the spec as a sparse list of (offset, byte) cells.
Canonical form: offsets strictly rising, no entry equal to what an unlisted offset reads as (`Memory.wf`). -/
abbrev Memory := List Host.Cell

end Sys2Proof
end

