-- ==== Sys2Proof/Config.lean ====
section
/-! DEFINITION. The parameters of a session (spec R8, R9, R73) and the values the spec leaves `OPEN`. -/

namespace Sys2Proof

/-- The two hardware variants (R3). -/
inductive Variant where
  | dmg
  | cgb
  deriving DecidableEq, Repr

/-- The bank-controller variants of R88 to R91. -/
inductive Controller where
  | none
  | a
  | b
  | c
  deriving DecidableEq, Repr

/-- One RGBA value of the frame buffer, byte order R, G, B, A (R46, R444). -/
structure Rgba where
  red : Byte
  green : Byte
  blue : Byte
  alpha : Byte
  deriving DecidableEq, Repr, Inhabited

/-- The cartridge record `CART` (R9).
`rom` lists the image by file offset, an unlisted offset being a zero byte. -/
structure Cart where
  rom : Memory
  romBanks : Nat
  ctrl : Controller
  ramBytes : Nat
  battery : Bool
  /-- The persisted contents of external RAM, one byte per offset from 0 (R9, R470). -/
  save : Option (List Byte)
  deriving DecidableEq, Repr

/-- A table of cycle costs by opcode byte (R147, R151): 16 rows by the high nibble, 16 columns by the low nibble. -/
abbrev CostTable := List (List Nat)

/-- The cost parameters of R8. -/
structure Costs where
  /-- `CYCLES[op]`, by the first byte; for a conditional transfer the cost not taken (R153). -/
  cycles : CostTable
  /-- `CYCLES_TAKEN[op]`, the cost of a conditional transfer that is taken (R153). -/
  cyclesTaken : CostTable
  /-- `CYCLES_CB[op]`, by the byte after the escape (R151, R153). -/
  cyclesCb : CostTable
  /-- `HALT_IDLE_CYCLES` (R362). -/
  haltIdle : Nat
  /-- `STOP_IDLE_CYCLES` (R361). -/
  stopIdle : Nat
  /-- `INT_DISPATCH_CYCLES` (R364). -/
  intDispatch : Nat
  deriving DecidableEq, Repr

/-- The period parameters of the Timer (R8): `DIV_PERIOD` (R382) and `TIMA_PERIOD[0..3]` (R383). -/
structure Periods where
  div : Nat
  tima0 : Nat
  tima1 : Nat
  tima2 : Nat
  tima3 : Nat
  deriving DecidableEq, Repr

/-- The display parameters of R8. -/
structure Display where
  /-- `PPU_OAM`, the cycles of OAM-search (R412). -/
  oam : Nat
  /-- `PPU_XFER`, the cycles of pixel-transfer (R412). -/
  xfer : Nat
  /-- `PPU_HBLANK`, the cycles of H-blank (R412). -/
  hblank : Nat
  /-- `PPU_LINE`, the cycles of one line of V-blank (R412). -/
  line : Nat
  /-- `PPU_LINES`, the scanlines of a frame (R412). -/
  lines : Nat
  /-- `PPU_VISIBLE`, the scanlines that are rendered (R412). -/
  visible : Nat
  /-- `SCREEN_W`, the pixels of a row (R431, R446). -/
  screenW : Nat
  /-- `SCREEN_H`, the rows of the frame (R431, R446). -/
  screenH : Nat
  deriving DecidableEq, Repr

/-- `DMG_SHADE[0..3]` (R443): `OPEN` in the spec, so a free value. -/
opaque Config.dmgShade : BitVec 2 → Rgba

/-- `ColorCorrect` (R444): three 5-bit channels to three 8-bit channels, `OPEN` in the spec, so a free value. -/
opaque Config.colorCorrect : BitVec 5 → BitVec 5 → BitVec 5 → Byte × Byte × Byte

/-- What row `y`, column `x` of the frame buffer holds before its line is first rendered: unspecified (R46), so a free
value. -/
opaque Config.unrenderedPixel : Nat → Nat → Rgba

/-- What entry `x` of `linebg` holds before a line is first rendered (R46): the background colour index and the priority
bit, unspecified, so a free value (no rule reads it before writing it). -/
opaque Config.unrenderedBg : Nat → BitVec 2 × Bool

end Sys2Proof
end

