-- ==== Sys2Proof/Machine/Memory.lean ====
section
/-! DEFINITION. One memory array: reading and writing a byte, and the canonical form; the cartridge record's
demands (R9). -/

namespace Sys2Proof

/-- What an offset with no entry reads as: `0x00`, the reset contents the spec stores in every RAM (R471). -/
def Memory.unlisted : Byte := 0

/-- The byte at offset `k`. -/
def Memory.get : Memory → Nat → Byte
  | [], _ => Memory.unlisted
  | (i, b) :: rest, k =>
    if k < i then Memory.unlisted else if k = i then b else Memory.get rest k

/-- The memory with byte `v` at offset `k`, in canonical form if it was. -/
def Memory.put : Memory → Nat → Byte → Memory
  | [], k, v => if v = Memory.unlisted then [] else [(k, v)]
  | (i, b) :: rest, k, v =>
    if k < i then (if v = Memory.unlisted then (i, b) :: rest else (k, v) :: (i, b) :: rest)
    else if k = i then (if v = Memory.unlisted then rest else (k, v) :: rest)
    else (i, b) :: Memory.put rest k v

/-- Every offset of the list is above `lo`, strictly rising, and no byte is what an unlisted offset reads as. -/
def Memory.risingFrom : Nat → Memory → Bool
  | _, [] => true
  | lo, (i, b) :: rest => (lo ≤ i) && (b != Memory.unlisted) && Memory.risingFrom (i + 1) rest

/-- The canonical form: equal memories are equal lists. -/
def Memory.wf (m : Memory) : Bool := Memory.risingFrom 0 m

/-- The memory is in canonical form and lists no offset from `size` on. -/
def Memory.within (size : Nat) (m : Memory) : Bool := m.wf && m.all (fun entry => entry.1 < size)

/-- The memory whose offsets `base`, `base + 1`, … hold the given bytes and whose other offsets are unlisted. -/
def Memory.ofBytesFrom : Nat → List Byte → Memory
  | _, [] => []
  | base, b :: rest =>
    if b = Memory.unlisted then Memory.ofBytesFrom (base + 1) rest
    else (base, b) :: Memory.ofBytesFrom (base + 1) rest

/-- External RAM as a session starts it (R34, R470): the persisted contents if there are any and their length is the RAM
size, else zeros. -/
def Cart.initialRam (c : Cart) : Memory :=
  match c.save with
  | some bytes => if bytes.length = c.ramBytes then Memory.ofBytesFrom 0 bytes else []
  | none => []

/-- What R9 demands of a cartridge record: a power of two of ROM banks, at least 2; no image byte beyond them; external
RAM of 0, 2048 or a multiple of 8192 bytes; and persisted contents, if there are any, of exactly that many bytes. -/
def Cart.wf (c : Cart) : Bool :=
  (2 ≤ c.romBanks) && (c.romBanks == 2 ^ Nat.log2 c.romBanks) && c.rom.within (c.romBanks * 0x4000) &&
    (c.ramBytes == 2048 || c.ramBytes % 8192 == 0) &&
    (match c.save with
    | some bytes => bytes.length == c.ramBytes
    | none => true)

end Sys2Proof
end

