-- ==== Sys2Proof/Machine/Parts.lean ====
section
/-! DEFINITION. The parts the state is made of (files 10, 60, 61, 70), and the session's configuration (R8, R9, R73). -/

namespace Sys2Proof.Machine

/-- The four flags, the only bits of `F` that are storage: `F[3:0]` always reads as zero and every write to `F` drops
those bits (R22). -/
structure Flags where
  z : Bool
  n : Bool
  h : Bool
  c : Bool
  deriving DecidableEq, Repr

/-- The Processor's registers, control flags and cycle clock (R20 to R29). -/
structure Cpu where
  a : Byte
  flags : Flags
  b : Byte
  c : Byte
  d : Byte
  e : Byte
  h : Byte
  l : Byte
  sp : Word
  pc : Word
  /-- `IME` (R25). -/
  ime : Bool
  /-- `ime_pending` (R26). -/
  imePending : Bool
  /-- `halt` (R27). -/
  halt : Bool
  /-- `stop` (R28). -/
  stop : Bool
  /-- `cyc_i`, the cost of the current step (R29). -/
  cycI : Nat
  /-- `cyc_t`, the sum over all steps (R29). -/
  cycT : Nat
  deriving DecidableEq, Repr

/-- The memories of the Bus (R33 to R39, R44).
Bank `b` of video RAM stands at offsets `b * 0x2000`, bank `k` of work RAM at `k * 0x1000`, external RAM by its own
offset, `io` by the low byte of the address. -/
structure Mems where
  vram : Memory
  eram : Memory
  wram : Memory
  oam : Memory
  io : Memory
  hram : Memory
  /-- `IE` at `0xFFFF` (R39, R69). -/
  ie : Byte
  bgpal : Memory
  objpal : Memory
  deriving DecidableEq, Repr

/-- The control state of the Bus (R32, R34, R40, R41). -/
structure BusCtl where
  bankLo : BitVec 9
  bankHi : BitVec 4
  bankMode : Bool
  eramEnabled : Bool
  eramDirty : Bool
  bootActive : Bool
  joySelect : BitVec 2
  deriving DecidableEq, Repr

/-- The eight keys of the host's snapshot, true when pressed (R41). -/
structure Keys where
  right : Bool
  left : Bool
  up : Bool
  down : Bool
  a : Bool
  b : Bool
  select : Bool
  start : Bool
  deriving DecidableEq, Repr

/-- The hidden state of the Timer (R42). -/
structure TimerState where
  divAcc : Nat
  timaAcc : Nat
  divReset : Bool
  timaSel : BitVec 2
  deriving DecidableEq, Repr

/-- What the background pass leaves for the sprite pass at one pixel of the scanline (R46). -/
structure BgInfo where
  index : BitVec 2
  prio : Bool
  deriving DecidableEq, Repr

/-- The frame buffer by rows that have been rendered, rising row numbers; a row with no entry still holds its unspecified
contents (R46). -/
abbrev Frame := List (Nat × List Rgba)

/-- The Pixel Processor's own state (R43, R46).
`ppu_mode` has one copy, `STAT[1:0]`, and the scanline index one copy, `LY` (R43). -/
structure PpuState where
  /-- `ppu_cyc`, cycles accumulated in the current mode (R43). -/
  cyc : Nat
  /-- `linebg`, empty before a line is first rendered (R46). -/
  linebg : List BgInfo
  frame : Frame
  deriving DecidableEq, Repr

/-- The H-blank DMA engine (R45). -/
structure HdmaState where
  src : Word
  dst : Word
  len : Nat
  active : Bool
  deriving DecidableEq, Repr

/-- The Scheduler (R47). -/
structure SchedState where
  bootWatch : Bool
  pollAcc : Nat
  deriving DecidableEq, Repr

/-- One column of the `RESET` record (R471): the value of every piece of state after `Reset` but the setup, the fault latch
and the host's side. External RAM and the two boot bits are set after it (R470). -/
structure ResetValues where
  cpu : Cpu
  mem : Mems
  ctl : BusCtl
  timer : TimerState
  ppu : PpuState
  hdma : HdmaState
  sched : SchedState
  keys : Keys
  deriving DecidableEq, Repr

/-- The `RESET` record (R8, R471), by the columns of its table. -/
structure ResetRecord where
  noBootDmg : ResetValues
  noBootCgb : ResetValues
  boot : ResetValues
  deriving DecidableEq, Repr

end Sys2Proof.Machine

namespace Sys2Proof

/-- Everything constant for a session (R8, R9, R73): it stands in State so that a statement about every state is a
statement about every configuration, and no step changes it. -/
structure Setup where
  variant : Variant
  cart : Cart
  /-- `BOOT`: the optional boot image, by address `0x00` to `0xFF` (R32). -/
  boot : Option Memory
  /-- `CYCLES`, `CYCLES_TAKEN`, `CYCLES_CB`, `HALT_IDLE_CYCLES`, `STOP_IDLE_CYCLES`, `INT_DISPATCH_CYCLES` (R153). -/
  costs : Costs
  /-- `DIV_PERIOD` and `TIMA_PERIOD` (R382, R383). -/
  periods : Periods
  /-- `PPU_OAM` to `PPU_VISIBLE`, `SCREEN_W`, `SCREEN_H` (R412, R446). -/
  display : Display
  /-- `JOYPAD_IRQ_ON_PRESS` (R392). -/
  joypadIrqOnPress : Bool
  /-- `GDMA_IMMEDIATE` (R452). -/
  gdmaImmediate : Bool
  /-- Whether a colour correction is configured (R444). -/
  colorCorrection : Bool
  /-- Whether the host installed the optional serial byte-sink (R112). -/
  serialSink : Bool
  /-- `SCHED_POLL_N`, the cycles between two input polls (R390), `OPEN` in the spec. -/
  pollEvery : Nat
  /-- `RESET` (R471). -/
  reset : Machine.ResetRecord
  deriving DecidableEq, Repr

end Sys2Proof

namespace Sys2Proof.Machine

/-- The host's answer to one input poll (R392): the key snapshot and the quit signal. -/
structure PollAnswer where
  keys : Keys
  quit : Bool
  deriving DecidableEq, Repr

/-- The host at the other side of the call interfaces of R12: the key snapshot it supplied, its answers still to come,
and what the core has handed to it. -/
structure HostSide where
  /-- `keys`, the snapshot of the last input poll (R41). -/
  keys : Keys
  /-- The host's answers to the input polls to come (R10, R392); with none left the host answers the same keys and no
  quit. -/
  polls : List PollAnswer
  /-- The values `STOP_WAKE_DMG` takes at the stopped steps to come (R361); with none left it is false, the default. -/
  stopWakes : List Bool
  /-- Whether the Scheduler asks for a save flush at the iterations to come (R122, R391); with none left it does not. -/
  flushes : List Bool
  /-- The bytes the serial byte-sink received, oldest first (R112). -/
  serialOut : List Byte
  /-- How many frames were handed over (R446). -/
  frameCount : Nat
  /-- The frame handed over last (R446). -/
  frameOut : Option Frame
  /-- The save blob handed over last: the contents of external RAM (R122). -/
  saveOut : Option Memory
  /-- The host's quit signal has ended the run (R391). -/
  ended : Bool
  deriving DecidableEq, Repr

end Sys2Proof.Machine
end

