-- ==== Sys2Proof/Machine/Defaults.lean ====
section
/-! DEFINITION. The default values of the parameters (R8), the `RESET` record's table (R471), the configuration
`State.reset` stands for, and what a configuration must meet. -/

namespace Sys2Proof.Machine

/-! ### Costs (R147, R151, R153) -/

/-- `CYCLES`, the lower and the upper half of the second grid of R147: the not-taken cost of a conditional transfer, 0 for
the escape and for an undefined opcode, which have no cost. -/
def defaultCycles : CostTable :=
  [[4, 12, 8, 8, 4, 4, 8, 4, 20, 8, 8, 8, 4, 4, 8, 4],
    [4, 12, 8, 8, 4, 4, 8, 4, 12, 8, 8, 8, 4, 4, 8, 4],
    [8, 12, 8, 8, 4, 4, 8, 4, 8, 8, 8, 8, 4, 4, 8, 4],
    [8, 12, 8, 8, 12, 12, 12, 4, 8, 8, 8, 8, 4, 4, 8, 4],
    [4, 4, 4, 4, 4, 4, 8, 4, 4, 4, 4, 4, 4, 4, 8, 4],
    [4, 4, 4, 4, 4, 4, 8, 4, 4, 4, 4, 4, 4, 4, 8, 4],
    [4, 4, 4, 4, 4, 4, 8, 4, 4, 4, 4, 4, 4, 4, 8, 4],
    [8, 8, 8, 8, 8, 8, 4, 8, 4, 4, 4, 4, 4, 4, 8, 4]] ++
  [[4, 4, 4, 4, 4, 4, 8, 4, 4, 4, 4, 4, 4, 4, 8, 4],
    [4, 4, 4, 4, 4, 4, 8, 4, 4, 4, 4, 4, 4, 4, 8, 4],
    [4, 4, 4, 4, 4, 4, 8, 4, 4, 4, 4, 4, 4, 4, 8, 4],
    [4, 4, 4, 4, 4, 4, 8, 4, 4, 4, 4, 4, 4, 4, 8, 4],
    [8, 12, 12, 16, 12, 16, 8, 16, 8, 16, 12, 0, 12, 24, 8, 16],
    [8, 12, 12, 0, 12, 16, 8, 16, 8, 16, 12, 0, 12, 0, 8, 16],
    [12, 12, 8, 0, 0, 16, 8, 16, 16, 4, 16, 0, 0, 0, 8, 16],
    [12, 12, 8, 4, 0, 16, 8, 16, 12, 8, 16, 4, 0, 0, 8, 16]]

/-- `CYCLES_TAKEN`: the taken costs of the second grid of R147, 0 where an opcode has none. -/
def defaultCyclesTaken : CostTable :=
  let none := List.replicate 16 0
  [none, none,
    [12, 0, 0, 0, 0, 0, 0, 0, 12, 0, 0, 0, 0, 0, 0, 0],
    [12, 0, 0, 0, 0, 0, 0, 0, 12, 0, 0, 0, 0, 0, 0, 0],
    none, none, none, none, none, none, none, none,
    [20, 0, 16, 0, 24, 0, 0, 0, 20, 0, 16, 0, 24, 0, 0, 0],
    [20, 0, 16, 0, 24, 0, 0, 0, 20, 0, 16, 0, 24, 0, 0, 0],
    none, none]

/-- `CYCLES_CB` (R151): 8 with a register; with `(HL)` 16, but 12 for `BIT`. -/
def defaultCyclesCb : CostTable :=
  let row (hl : Nat) := [8, 8, 8, 8, 8, 8, hl, 8, 8, 8, 8, 8, 8, 8, hl, 8]
  List.replicate 4 (row 16) ++ List.replicate 4 (row 12) ++ List.replicate 8 (row 16)

/-- The costs of R8, R153. -/
def defaultCosts : Costs :=
  { cycles := defaultCycles, cyclesTaken := defaultCyclesTaken, cyclesCb := defaultCyclesCb
    haltIdle := 4, stopIdle := 4, intDispatch := 20 }

/-- The periods of R8. -/
def defaultPeriods : Periods := { div := 256, tima0 := 1024, tima1 := 16, tima2 := 64, tima3 := 256 }

/-- The display of R8. -/
def defaultDisplay : Display :=
  { oam := 80, xfer := 172, hblank := 204, line := 456, lines := 154, visible := 144, screenW := 160, screenH := 144 }

/-! ### The reset record (R471) -/

/-- No key pressed (R41). -/
def Keys.released : Keys :=
  { right := false, left := false, up := false, down := false,
    a := false, b := false, select := false, start := false }

/-- What the three columns of R471 share: zeros, and the destination of the H-blank DMA at the start of video RAM. -/
def resetCommon (cpu : Cpu) (io : Memory) : ResetValues :=
  { cpu := cpu
    mem := { vram := [], eram := [], wram := [], oam := [], io := io, hram := [], ie := 0, bgpal := [], objpal := [] }
    ctl :=
      { bankLo := 0, bankHi := 0, bankMode := false, eramEnabled := false, eramDirty := false, bootActive := false,
        joySelect := 0 }
    timer := { divAcc := 0, timaAcc := 0, divReset := false, timaSel := 0 }
    ppu := { cyc := 0, linebg := [], frame := [] }
    hdma := { src := 0, dst := 0x8000, len := 0, active := false }
    sched := { bootWatch := false, pollAcc := 0 }
    keys := Keys.released }

/-- Registers that are all zero (R471, column *boot*; R20 to R29). -/
def Cpu.zero : Cpu :=
  { a := 0, flags := ⟨false, false, false, false⟩, b := 0, c := 0, d := 0, e := 0, h := 0, l := 0, sp := 0, pc := 0,
    ime := false, imePending := false, halt := false, stop := false, cycI := 0, cycT := 0 }

/-- The I/O bytes of the columns *no boot* that are not `0x00`: `LCDC`, `STAT`, `BGP`, `OBP0`, `OBP1` (R471). -/
def ioNoBoot : Memory := [(0x40, 0x91), (0x41, 0x06), (0x47, 0xFC), (0x48, 0xFF), (0x49, 0xFF)]

/-- The `RESET` record's table (R471). -/
def defaultReset : ResetRecord :=
  { noBootDmg :=
      resetCommon
        { Cpu.zero with
          a := 0x01, flags := ⟨true, false, true, true⟩, c := 0x13, e := 0xD8, h := 0x01, l := 0x4D, sp := 0xFFFE
          pc := 0x0100 }
        ioNoBoot
    noBootCgb :=
      resetCommon
        { Cpu.zero with
          a := 0x11, flags := ⟨true, false, false, false⟩, d := 0xFF, e := 0x56, l := 0x0D, sp := 0xFFFE
          pc := 0x0100 }
        ioNoBoot
    boot := resetCommon Cpu.zero [(0x41, 0x04)] }

/-- The column of the `RESET` record that a configuration selects (R470, R471). -/
def resetColumn (su : Setup) : ResetValues :=
  match su.boot, su.variant with
  | some _, _ => su.reset.boot
  | none, .dmg => su.reset.noBootDmg
  | none, .cgb => su.reset.noBootCgb

/-- The configuration `State.reset` stands for: the baseline of 95_test_vectors.md (monochrome, no boot image, a 32 KiB
cartridge of zero bytes with no controller and no external RAM), with the defaults of R8.
`pollEvery` is `OPEN` in the spec: one frame is the model's choice. -/
def baselineSetup : Setup :=
  { variant := .dmg
    cart := { rom := [], romBanks := 2, ctrl := .none, ramBytes := 0, battery := false, save := none }
    boot := none
    costs := defaultCosts
    periods := defaultPeriods
    display := defaultDisplay
    joypadIrqOnPress := true
    gdmaImmediate := true
    colorCorrection := false
    serialSink := true
    pollEvery := 70224
    reset := defaultReset }

end Sys2Proof.Machine

namespace Sys2Proof

/-! ### What a configuration must meet -/

/-- A cost table has an entry for every byte. -/
def costTableWf (t : CostTable) : Bool := t.length == 16 && t.all (fun row => row.length == 16)

/-- The three tables have an entry for every byte. -/
def Costs.wf (c : Costs) : Bool := costTableWf c.cycles && costTableWf c.cyclesTaken && costTableWf c.cyclesCb

/-- No period is zero: the loops of R382 and R383 take one off while a whole one is left. -/
def Periods.wf (p : Periods) : Bool := 0 < p.div && 0 < p.tima0 && 0 < p.tima1 && 0 < p.tima2 && 0 < p.tima3

/-- No mode lasts zero cycles (the loop of R412 would not end), there are visible lines and after them V-blank, `LY` can
count them in its 8 bits (R58), and the frame has a row for every visible line (R431). -/
def Display.wf (d : Display) : Bool :=
  0 < d.oam && 0 < d.xfer && 0 < d.hblank && 0 < d.line && 0 < d.visible && d.visible < d.lines && d.lines ≤ 256 &&
    d.visible ≤ d.screenH

/-- Every memory is in its canonical form and of its size (R33 to R38, R44). -/
def Machine.ResetValues.wf (r : Machine.ResetValues) : Bool :=
  r.mem.vram.within 0x4000 && r.mem.wram.within 0x8000 && r.mem.oam.within 160 && r.mem.io.within 128 &&
    r.mem.hram.within 127 && r.mem.bgpal.within 64 && r.mem.objpal.within 64

/-- The parameters of R8 beside the cartridge are of their types, and the loops that use them end. -/
def Setup.parametersWf (su : Setup) : Bool :=
  su.boot.all (Memory.within 0x100) && su.costs.wf && su.periods.wf && su.display.wf && (Machine.resetColumn su).wf

/-- What R8 and R9 demand of a configuration. -/
def Setup.wf (su : Setup) : Bool := su.cart.wf && su.parametersWf

end Sys2Proof
end

