-- ==== Sys2Proof/Syntax.lean ====
section
/-! DEFINITION. The instructions: one constructor per row of spec/opcode_table.json (R140 to R158). -/

namespace Sys2Proof

/-- The eight 8-bit registers (R20). -/
inductive Reg8 where
  | a | f | b | c | d | e | h | l
  deriving DecidableEq, Repr

/-- The four register pairs and the stack pointer (R21, R23). -/
inductive Reg16 where
  | af | bc | de | hl | sp
  deriving DecidableEq, Repr

/-- The four conditions (R310). -/
inductive Cond where
  | nz | z | nc | c
  deriving DecidableEq, Repr

/-- The instruction set.
A name ending in `R` takes a register operand, in `Hl` the byte at `(HL)`, in `D8` an immediate byte. -/
inductive Instr where
  | nop
  | ldA16Sp (a16 : Word)
  | stop (padding : Byte)
  | jrE8 (e8 : Byte)
  | jrCcE8 (cc : Cond) (e8 : Byte)
  | ldRrD16 (rr : Reg16) (d16 : Word)
  | addHlRr (rr : Reg16)
  | ldBcA
  | ldDeA
  | ldHliA
  | ldHldA
  | ldABc
  | ldADe
  | ldAHli
  | ldAHld
  | incRr (rr : Reg16)
  | decRr (rr : Reg16)
  | incR (r : Reg8)
  | incHl
  | decR (r : Reg8)
  | decHl
  | ldRD8 (r : Reg8) (d8 : Byte)
  | ldHlD8 (d8 : Byte)
  | rlca
  | rrca
  | rla
  | rra
  | daa
  | cpl
  | scf
  | ccf
  | ldRR (dst src : Reg8)
  | ldRHl (r : Reg8)
  | ldHlR (r : Reg8)
  | halt
  | addR (r : Reg8)
  | addHl
  | addD8 (d8 : Byte)
  | adcR (r : Reg8)
  | adcHl
  | adcD8 (d8 : Byte)
  | subR (r : Reg8)
  | subHl
  | subD8 (d8 : Byte)
  | sbcR (r : Reg8)
  | sbcHl
  | sbcD8 (d8 : Byte)
  | andR (r : Reg8)
  | andHl
  | andD8 (d8 : Byte)
  | xorR (r : Reg8)
  | xorHl
  | xorD8 (d8 : Byte)
  | orR (r : Reg8)
  | orHl
  | orD8 (d8 : Byte)
  | cpR (r : Reg8)
  | cpHl
  | cpD8 (d8 : Byte)
  | retCc (cc : Cond)
  | ldhA8A (a8 : Byte)
  | addSpE8 (e8 : Byte)
  | ldhAA8 (a8 : Byte)
  | ldHlSpE8 (e8 : Byte)
  | popRr (rr : Reg16)
  | popAf
  | ret
  | reti
  | jpHl
  | ldSpHl
  | jpCcA16 (cc : Cond) (a16 : Word)
  | ldhCA
  | ldA16A (a16 : Word)
  | ldhAC
  | ldAA16 (a16 : Word)
  | jpA16 (a16 : Word)
  /-- The escape byte `0xCB` by itself, its second byte not yet fetched (R335). -/
  | prefixCb
  | di
  | ei
  | callCcA16 (cc : Cond) (a16 : Word)
  | pushRr (rr : Reg16)
  | callA16 (a16 : Word)
  | rstN (t : BitVec 3)
  | undefinedD3
  | undefinedDB
  | undefinedDD
  | undefinedE3
  | undefinedE4
  | undefinedEB
  | undefinedEC
  | undefinedED
  | undefinedF4
  | undefinedFC
  | undefinedFD
  | rlcR (r : Reg8)
  | rlcHl
  | rrcR (r : Reg8)
  | rrcHl
  | rlR (r : Reg8)
  | rlHl
  | rrR (r : Reg8)
  | rrHl
  | slaR (r : Reg8)
  | slaHl
  | sraR (r : Reg8)
  | sraHl
  | swapR (r : Reg8)
  | swapHl
  | srlR (r : Reg8)
  | srlHl
  | bitBR (b : BitVec 3) (r : Reg8)
  | bitBHl (b : BitVec 3)
  | resBR (b : BitVec 3) (r : Reg8)
  | resBHl (b : BitVec 3)
  | setBR (b : BitVec 3) (r : Reg8)
  | setBHl (b : BitVec 3)
  deriving DecidableEq, Repr

end Sys2Proof
end

