-- ==== Sys2Proof/Machine/State.lean ====
section
/-! DEFINITION. Everything the spec gives the machine (files 10, 60, 61, 70), its reset value, and the reasons a step
stops. -/

namespace Sys2Proof.Machine

/-- What a fatal condition reports (R350). -/
inductive FatalInfo where
  /-- The address of the bus access that has no backing (R115). -/
  | address (addr : Word)
  /-- The undefined opcode and the address it was fetched at (R336). -/
  | opcode (op : Byte) (fetchedAt : Word)
  deriving DecidableEq, Repr

/-- The two kinds of fatal condition (R30, R350). -/
inductive FatalKind where
  | processor
  | pixelProcessor
  deriving DecidableEq, Repr

/-- `Fatal(kind, info)` (R30). -/
structure Fatal where
  kind : FatalKind
  info : FatalInfo
  deriving DecidableEq, Repr

/-- The machine. -/
structure State where
  setup : Setup
  cpu : Cpu
  mem : Mems
  ctl : BusCtl
  timer : TimerState
  ppu : PpuState
  hdma : HdmaState
  sched : SchedState
  host : HostSide
  /-- The fault latch (R30). -/
  fault : Option Fatal
  deriving DecidableEq, Repr

/-- The reasons the machine stops with a fault: the fatal conditions of R350.
Each carries the machine as the fatal condition leaves it: what was written before it stays written, nothing after it
happens, and the latch is set (R350). -/
inductive Fault where
  /-- `ProcessorFault`: raised by an undefined opcode (R336) and by a bus access of a Processor step, or of a DMA copy
  inside one, that has no backing (R115).  Safe: the spec ends the session there. -/
  | processorFault (info : FatalInfo) (final : State)
  /-- `PixelProcessorFault`: raised by the H-blank DMA step inside the Pixel Processor's advance (R115, R453).  Safe: the
  spec ends the session there. -/
  | pixelProcessorFault (info : FatalInfo) (final : State)
  deriving DecidableEq, Repr

/-- The reasons a step has no meaning. -/
inductive Refusal where
  /-- The instruction of this mnemonic has no meaning yet.  Raised by no arm.  Safe. -/
  | notModelled (mnemonic : String)
  /-- The fault latch is set: no agent steps again (R350, U6 of 93_implementation_defined.md).  Raised by `step`.  Safe. -/
  | afterFatal
  /-- The host's quit signal has ended the run (R391).  Raised by `step`.  Safe. -/
  | afterQuit
  /-- The cartridge record violates R9, so no session starts (U7 of 93_implementation_defined.md).  Raised by `powerOn`.
  Safe. -/
  | malformedCart
  /-- Another parameter of R8 is not of its type, or would keep a loop of the rules from ending.  Raised by `powerOn`.
  Safe. -/
  | malformedParameters
  deriving DecidableEq, Repr

/-- The outcome of an instruction or a step. -/
abbrev Out := Host.Outcome State Fault Refusal

/-- The outcome of an operation that moves bytes over the Bus: a value and the state after it, or a fatal condition at an
address and the state it leaves (R14, R115, R350). -/
inductive Res (α : Type) where
  | ok (val : α) (s : State)
  | fatal (addr : Word) (s : State)
  deriving DecidableEq, Repr

/-- The machine right after reset for a configuration (R470, R471): the column of the `RESET` record, external RAM from the
persisted contents, the boot overlay on if there is a boot image. -/
def State.resetWith (su : Setup) : State :=
  let r := resetColumn su
  { setup := su
    cpu := r.cpu
    mem := { r.mem with eram := su.cart.initialRam }
    ctl := { r.ctl with bootActive := su.boot.isSome }
    timer := r.timer
    ppu := r.ppu
    hdma := r.hdma
    sched := { r.sched with bootWatch := su.boot.isSome }
    host :=
      { keys := r.keys, polls := [], stopWakes := [], flushes := [], serialOut := [], frameCount := 0,
        frameOut := none, saveOut := none, ended := false }
    fault := none }

/-- The machine right after reset (R470, R471), for `baselineSetup`. -/
def State.reset : State := State.resetWith baselineSetup

end Sys2Proof.Machine
end

