-- ==== Sys2Proof/Machine/Registers.lean ====
section
/-! DEFINITION. The accessors of registers and control flags: every read and write of one goes through here (R14, R20 to
R30). -/

namespace Sys2Proof.Machine

/-- The byte `F` reads as: `Z N H C` in bits 7 to 4, bits 3 to 0 zero (R22). -/
def Flags.toByte (f : Flags) : Byte :=
  BitVec.ofBool f.z ++ BitVec.ofBool f.n ++ BitVec.ofBool f.h ++ BitVec.ofBool f.c ++ 0#4

/-- What a write of `v` to `F` stores: `v & 0xF0` (R22). -/
def flagsOfByte (v : Byte) : Flags :=
  { z := v.getLsbD 7, n := v.getLsbD 6, h := v.getLsbD 5, c := v.getLsbD 4 }

/-- `x[r]` for an 8-bit register (R14, R20). -/
def reg8 (s : State) : Reg8 → Byte
  | .a => s.cpu.a
  | .f => s.cpu.flags.toByte
  | .b => s.cpu.b
  | .c => s.cpu.c
  | .d => s.cpu.d
  | .e => s.cpu.e
  | .h => s.cpu.h
  | .l => s.cpu.l

/-- `x[r] <- v` for an 8-bit register (R14, R20, R22). -/
def setReg8 (r : Reg8) (v : Byte) (s : State) : State :=
  match r with
  | .a => { s with cpu := { s.cpu with a := v } }
  | .f => { s with cpu := { s.cpu with flags := flagsOfByte v } }
  | .b => { s with cpu := { s.cpu with b := v } }
  | .c => { s with cpu := { s.cpu with c := v } }
  | .d => { s with cpu := { s.cpu with d := v } }
  | .e => { s with cpu := { s.cpu with e := v } }
  | .h => { s with cpu := { s.cpu with h := v } }
  | .l => { s with cpu := { s.cpu with l := v } }

/-- The high byte of a word, `v[15:8]` (R13). -/
def hiByte (v : Word) : Byte := v.extractLsb' 8 8

/-- The low byte of a word, `v[7:0]` (R13). -/
def loByte (v : Word) : Byte := v.extractLsb' 0 8

/-- `x[rr]` for a pair or `SP`: a pair is a view of its two bytes, the first-named in bits 15 to 8 (R21, R23). -/
def reg16 (s : State) : Reg16 → Word
  | .af => s.cpu.a ++ s.cpu.flags.toByte
  | .bc => s.cpu.b ++ s.cpu.c
  | .de => s.cpu.d ++ s.cpu.e
  | .hl => s.cpu.h ++ s.cpu.l
  | .sp => s.cpu.sp

/-- `x[rr] <- v` for a pair or `SP` (R21, R22, R23). -/
def setReg16 (rr : Reg16) (v : Word) (s : State) : State :=
  match rr with
  | .af => { s with cpu := { s.cpu with a := hiByte v, flags := flagsOfByte (loByte v) } }
  | .bc => { s with cpu := { s.cpu with b := hiByte v, c := loByte v } }
  | .de => { s with cpu := { s.cpu with d := hiByte v, e := loByte v } }
  | .hl => { s with cpu := { s.cpu with h := hiByte v, l := loByte v } }
  | .sp => { s with cpu := { s.cpu with sp := v } }

/-- `SetFlags(Z, N, H, C)` (R215). -/
def setFlags (f : Flags) (s : State) : State := { s with cpu := { s.cpu with flags := f } }

/-- `pc <- v` (R24). -/
def setPc (v : Word) (s : State) : State := { s with cpu := { s.cpu with pc := v } }

/-- `cost <- n` (R14, R29). -/
def setCost (n : Nat) (s : State) : State := { s with cpu := { s.cpu with cycI := n } }

/-- The step's cost with `n` more cycles (R29, R364). -/
def addCost (n : Nat) (s : State) : State := { s with cpu := { s.cpu with cycI := s.cpu.cycI + n } }

/-- `cyc_t <- cyc_t + cyc_i` (R29, R360). -/
def addTotal (s : State) : State := { s with cpu := { s.cpu with cycT := s.cpu.cycT + s.cpu.cycI } }

/-- `IME <- b` (R25). -/
def setIme (b : Bool) (s : State) : State := { s with cpu := { s.cpu with ime := b } }

/-- `ime_pending <- b` (R26). -/
def setImePending (b : Bool) (s : State) : State := { s with cpu := { s.cpu with imePending := b } }

/-- `halt <- b` (R27). -/
def setHalt (b : Bool) (s : State) : State := { s with cpu := { s.cpu with halt := b } }

/-- `stop <- b` (R28). -/
def setStop (b : Bool) (s : State) : State := { s with cpu := { s.cpu with stop := b } }

/-- The machine with its fault latch set (R30, R350). -/
def latch (kind : FatalKind) (info : FatalInfo) (s : State) : State := { s with fault := some ⟨kind, info⟩ }

/-- `raise Fatal(ProcessorFault, info)` (R14, R350): the state as it stands, with the latch set. -/
def processorFatal (info : FatalInfo) (s : State) : Out := .fault (.processorFault info (latch .processor info s))

end Sys2Proof.Machine
end

