-- ==== Sys2Proof/Machine/Bus.lean ====
section
/-! DEFINITION. The Bus (20_memory.md): the address decoder, the bank controller, the I/O registers and their side
effects, `readByte` and `writeByte`, and the two DMA copies that run inside a write. -/

namespace Sys2Proof.Machine

/-! ### The I/O bytes by name (R48 to R68) -/

/-- `io[n]` (R37). -/
def io (s : State) (n : Nat) : Byte := Memory.get s.mem.io n

/-- `io[n] <- v` (R37). -/
def setIo (n : Nat) (v : Byte) (s : State) : State := { s with mem := { s.mem with io := Memory.put s.mem.io n v } }

/-- `DIV` (R50). -/
def divReg (s : State) : Byte := io s 0x04
/-- `TIMA` (R51). -/
def timaReg (s : State) : Byte := io s 0x05
/-- `TMA` (R52). -/
def tmaReg (s : State) : Byte := io s 0x06
/-- `TAC` (R53). -/
def tacReg (s : State) : Byte := io s 0x07
/-- `IF` (R54). -/
def ifReg (s : State) : Byte := io s 0x0F
/-- `LCDC` (R55). -/
def lcdc (s : State) : Byte := io s 0x40
/-- `STAT` (R56). -/
def stat (s : State) : Byte := io s 0x41
/-- `SCY` (R57). -/
def scy (s : State) : Byte := io s 0x42
/-- `SCX` (R57). -/
def scx (s : State) : Byte := io s 0x43
/-- `LY` (R58). -/
def ly (s : State) : Byte := io s 0x44
/-- `LYC` (R59). -/
def lyc (s : State) : Byte := io s 0x45
/-- `BGP` (R61). -/
def bgp (s : State) : Byte := io s 0x47
/-- `OBP0` (R61). -/
def obp0 (s : State) : Byte := io s 0x48
/-- `OBP1` (R61). -/
def obp1 (s : State) : Byte := io s 0x49
/-- `WY` (R62). -/
def wyReg (s : State) : Byte := io s 0x4A
/-- `WX` (R62). -/
def wxReg (s : State) : Byte := io s 0x4B
/-- `KEY1` (R63). -/
def key1 (s : State) : Byte := io s 0x4D
/-- `BCPS` (R67). -/
def bcps (s : State) : Byte := io s 0x68
/-- `OCPS` (R67). -/
def ocps (s : State) : Byte := io s 0x6A

/-- The session is of the colour variant (R3). -/
def isCgb (s : State) : Bool := s.setup.variant == .cgb

/-- `speed` (R63): 1 in double speed, 0 otherwise and always on `DMG`. -/
def speed (s : State) : Nat := if isCgb s && (key1 s).getLsbD 7 then 1 else 0

/-- `vram_bank` (R33, R64): bit 0 of `VBK` on `CGB`, 0 on `DMG` (R71). -/
def vramBank (s : State) : Nat := if isCgb s && (io s 0x4F).getLsbD 0 then 1 else 0

/-- `wram_bank` (R35, R68): `SVBK[2:0]` on `CGB`, 1 where that is 0 and on `DMG` (R71). -/
def wramBank (s : State) : Nat :=
  let k := (io s 0x70).toNat % 8
  if isCgb s && k != 0 then k else 1

/-! ### The bank controller (R87 to R92) -/

/-- The composed ROM and RAM bank indices before normalisation (R88 to R91). -/
def composedBanks (s : State) : Nat × Nat :=
  match s.setup.cart.ctrl with
  | .none => (0, 0)
  | .a =>
    if s.ctl.bankMode then (s.ctl.bankLo.toNat, s.ctl.bankHi.toNat)
    else ((s.ctl.bankHi.toNat <<< 5) ||| s.ctl.bankLo.toNat, 0)
  | .b => (s.ctl.bankLo.toNat, s.ctl.bankHi.toNat)
  | .c => (s.ctl.bankLo.toNat, s.ctl.bankHi.toNat)

/-- The remap of R92: a multiple of `0x20`, zero among them, receives one more. -/
def remapBank (idx : Nat) : Nat := if idx % 0x20 = 0 then idx + 1 else idx

/-- `rom_bank` (R40, R92), the 16 KiB bank at `0x4000–0x7FFF`. -/
def romBank (s : State) : Nat := remapBank (composedBanks s).1 % s.setup.cart.romBanks

/-- `max(1, ceil(CART.ramBytes / 0x2000))` (R92). -/
def ramBanks (c : Cart) : Nat := max 1 ((c.ramBytes + 0x1FFF) / 0x2000)

/-- `ram_bank` (R40, R92), the 8 KiB bank at `0xA000–0xBFFF`. -/
def ramBank (s : State) : Nat := (composedBanks s).2 % ramBanks s.setup.cart

/-- The write regions of `0x0000–0x7FFF` (R87). -/
inductive BankRegion where
  | enable
  | low
  | second
  | mode
  deriving DecidableEq, Repr

/-- The write region of an address below `0x8000` (R87). -/
def bankRegion (addr : Word) : BankRegion :=
  if addr.toNat < 0x2000 then .enable
  else if addr.toNat < 0x4000 then .low
  else if addr.toNat < 0x6000 then .second
  else .mode

/-- The low register after a write of `v` at `addr` in region `L` (R89 to R91). -/
def bankLoAfter (ctrl : Controller) (addr : Word) (v : Byte) (old : BitVec 9) : BitVec 9 :=
  match ctrl with
  | .none => old
  | .a => (v.extractLsb' 0 5).setWidth 9
  | .b => (v.extractLsb' 0 7).setWidth 9
  | .c => if addr.toNat < 0x3000 then old.extractLsb' 8 1 ++ v else v.extractLsb' 0 1 ++ old.extractLsb' 0 8

/-- The second register after a write of `v` in region `S` (R89 to R91). -/
def bankHiAfter (ctrl : Controller) (v : Byte) (old : BitVec 4) : BitVec 4 :=
  match ctrl with
  | .none => old
  | .a => (v.extractLsb' 0 2).setWidth 4
  | .b => (v.extractLsb' 0 2).setWidth 4
  | .c => v.extractLsb' 0 4

/-- A write to `0x0000–0x7FFF` (R87 to R91): the ROM is never changed; a region the variant does not use ignores the
write. -/
def bankWrite (addr : Word) (v : Byte) (s : State) : State :=
  let ctrl := s.setup.cart.ctrl
  match bankRegion addr with
  | .enable =>
    if ctrl = .none then s else { s with ctl := { s.ctl with eramEnabled := v.extractLsb' 0 4 == 0xA#4 } }
  | .low => { s with ctl := { s.ctl with bankLo := bankLoAfter ctrl addr v s.ctl.bankLo } }
  | .second => { s with ctl := { s.ctl with bankHi := bankHiAfter ctrl v s.ctl.bankHi } }
  | .mode => if ctrl = .a then { s with ctl := { s.ctl with bankMode := v.getLsbD 0 } } else s

/-! ### The address decoder (R80 to R82) -/

/-- What an address names (R81, R82): the place of a byte, or nothing. -/
inductive Loc where
  /-- A byte of the boot overlay (R85). -/
  | boot (i : Nat)
  /-- A byte of the cartridge image by file offset (R85, R86). -/
  | rom (off : Nat)
  | vram (off : Nat)
  | eram (off : Nat)
  | wram (off : Nat)
  | oam (off : Nat)
  | io (n : Nat)
  | hram (off : Nat)
  | ie
  /-- No backing: a fatal condition (R94, R98, R115). -/
  | nothing
  deriving DecidableEq, Repr

/-- `ExtOffset(addr)` (R94). -/
def extOffset (s : State) (addr : Word) : Nat := ramBank s * 0x2000 + (addr.toNat - 0xA000)

/-- The place in work RAM of address `n` in `0xC000–0xDFFF` (R95). -/
def wramLoc (s : State) (n : Nat) : Loc :=
  if n < 0xD000 then .wram (n - 0xC000) else .wram (wramBank s * 0x1000 + (n - 0xD000))

/-- The address decoder: the first matching row of R81 and R82. -/
def locate (s : State) (addr : Word) : Loc :=
  let n := addr.toNat
  if n < 0x0100 ∧ s.ctl.bootActive = true then .boot n
  else if n < 0x4000 then .rom n
  else if n < 0x8000 then .rom (romBank s * 0x4000 + (n - 0x4000))
  else if n < 0xA000 then .vram (vramBank s * 0x2000 + (n - 0x8000))
  else if n < 0xC000 then
    if s.ctl.eramEnabled = true ∧ extOffset s addr < s.setup.cart.ramBytes then .eram (extOffset s addr) else .nothing
  else if n < 0xE000 then wramLoc s n
  else if n < 0xFE00 then wramLoc s (n - 0x2000)
  else if n < 0xFEA0 then .oam (n - 0xFE00)
  else if n < 0xFF00 then .nothing
  else if n < 0xFF80 then .io (n - 0xFF00)
  else if n < 0xFFFF then .hram (n - 0xFF80)
  else .ie

/-! ### Reads (R81, R99, R100) -/

/-- The two groups of joypad lines, a pressed key being a one here (R99). -/
def joypadLines (k : Keys) (select : BitVec 2) : BitVec 4 :=
  let directions := BitVec.ofBool k.down ++ BitVec.ofBool k.up ++ BitVec.ofBool k.left ++ BitVec.ofBool k.right
  let actions := BitVec.ofBool k.start ++ BitVec.ofBool k.select ++ BitVec.ofBool k.b ++ BitVec.ofBool k.a
  (if select.getLsbD 0 then 0#4 else directions) ||| (if select.getLsbD 1 then 0#4 else actions)

/-- The read of `P1` (R48, R99): bits 7 and 6 one, the select bits, and a zero for a pressed key of a selected group. -/
def joypadByte (s : State) : Byte :=
  0b11#2 ++ s.ctl.joySelect ++ ~~~(joypadLines s.host.keys s.ctl.joySelect)

/-- The read of `HDMA5` (R66, R454). -/
def hdma5Byte (s : State) : Byte :=
  if s.hdma.active then BitVec.ofNat 8 ((s.hdma.len / 16 - 1) % 128) else 0xFF

/-- The index into a colour palette memory: bits 5 to 0 of `BCPS` or `OCPS` (R67). -/
def palIndex (ps : Byte) : Nat := ps.toNat % 64

/-- A read of `0xFF00 + n` with `n < 0x80` (R99, R100). -/
def ioRead (s : State) (n : Nat) : Byte :=
  if n = 0x00 then joypadByte s
  else if isCgb s ∧ n = 0x55 then hdma5Byte s
  else if isCgb s ∧ n = 0x69 then Memory.get s.mem.bgpal (palIndex (bcps s))
  else if isCgb s ∧ n = 0x6B then Memory.get s.mem.objpal (palIndex (ocps s))
  else io s n

/-- The byte at a place; `none` is a fatal condition (R81). -/
def readLoc (s : State) : Loc → Option Byte
  | .boot i => some (Memory.get (s.setup.boot.getD []) i)
  | .rom off => some (Memory.get s.setup.cart.rom off)
  | .vram off => some (Memory.get s.mem.vram off)
  | .eram off => some (Memory.get s.mem.eram off)
  | .wram off => some (Memory.get s.mem.wram off)
  | .oam off => some (Memory.get s.mem.oam off)
  | .io n => some (ioRead s n)
  | .hram off => some (Memory.get s.mem.hram off)
  | .ie => some s.mem.ie
  | .nothing => none

/-- `readByte(addr)` (R81): the byte, or `none` for a fatal condition at `addr` (R115).
No read changes the state (R117). -/
def readByte (s : State) (addr : Word) : Option Byte := readLoc s (locate s addr)

/-! ### Interrupt requests and the coincidence check -/

/-- `Request(i)` (R352). -/
def request (i : Nat) (s : State) : State := setIo 0x0F (ifReg s ||| (1#8 <<< i)) s

/-- `STAT` with bit 2 set to `b` (R420). -/
def withCoincidence (b : Bool) (v : Byte) : Byte := v.extractLsb' 3 5 ++ BitVec.ofBool b ++ v.extractLsb' 0 2

/-- `CoincidenceCheck()` (R420). -/
def coincidenceCheck (s : State) : State :=
  if ly s = lyc s then
    let s1 := setIo 0x41 (withCoincidence true (stat s)) s
    if (stat s1).getLsbD 6 then request 1 s1 else s1
  else setIo 0x41 (withCoincidence false (stat s)) s

/-- The four modes of the Pixel Processor (R43). -/
inductive PpuMode where
  | hBlank
  | vBlank
  | oamSearch
  | pixelTransfer
  deriving DecidableEq, Repr

/-- The code of a mode in `STAT[1:0]` (R56, R412). -/
def PpuMode.code : PpuMode → BitVec 2
  | .hBlank => 0b00
  | .vBlank => 0b01
  | .oamSearch => 0b10
  | .pixelTransfer => 0b11

/-- The mode a code of `STAT[1:0]` stands for (R56). -/
def modeOfCode : BitVec 2 → PpuMode
  | 0b00#2 => .hBlank
  | 0b01#2 => .vBlank
  | 0b10#2 => .oamSearch
  | _ => .pixelTransfer

/-- `ppu_mode` (R43), whose one copy is `STAT[1:0]`. -/
def ppuMode (s : State) : PpuMode := modeOfCode ((stat s).extractLsb' 0 2)

/-- `SetMode(m)` (R412). -/
def setMode (m : PpuMode) (s : State) : State := setIo 0x41 ((stat s).extractLsb' 2 6 ++ m.code) s

/-- `ppu_cyc <- n` (R43). -/
def setPpuCyc (n : Nat) (s : State) : State := { s with ppu := { s.ppu with cyc := n } }

/-! ### Writes to the memories and the copies that run inside a write -/

def setVram (off : Nat) (v : Byte) (s : State) : State :=
  { s with mem := { s.mem with vram := Memory.put s.mem.vram off v } }
def setWram (off : Nat) (v : Byte) (s : State) : State :=
  { s with mem := { s.mem with wram := Memory.put s.mem.wram off v } }
def setOam (off : Nat) (v : Byte) (s : State) : State :=
  { s with mem := { s.mem with oam := Memory.put s.mem.oam off v } }
def setHram (off : Nat) (v : Byte) (s : State) : State :=
  { s with mem := { s.mem with hram := Memory.put s.mem.hram off v } }
def setIe (v : Byte) (s : State) : State := { s with mem := { s.mem with ie := v } }

/-- A write to external RAM, which marks it dirty (R94). -/
def setEram (off : Nat) (v : Byte) (s : State) : State :=
  { s with
    mem := { s.mem with eram := Memory.put s.mem.eram off v }
    ctl := { s.ctl with eramDirty := true } }

/-- `n` bytes of the OAM DMA from the `i`-th on (R106): each is a `readByte` of the source, stored in object attribute
memory before the next is read. -/
def oamCopy (src : Word) : Nat → Nat → State → Res Unit
  | 0, _, s => .ok () s
  | n + 1, i, s =>
    let addr := src + BitVec.ofNat 16 i
    match readByte s addr with
    | none => .fatal addr s
    | some b => oamCopy src n (i + 1) (setOam i b s)

/-- The write to `DMA` (R106): store, then copy 160 bytes from `v * 0x100`. -/
def dmaWrite (v : Byte) (s : State) : Res Unit := oamCopy (v ++ 0#8) 160 0 (setIo 0x46 v s)

/-- `n` bytes of a chunk of the H-blank DMA from the `i`-th on (R451). -/
def chunkCopy : Nat → Nat → State → Res Unit
  | 0, _, s => .ok () s
  | n + 1, i, s =>
    let addr := s.hdma.src + BitVec.ofNat 16 i
    match readByte s addr with
    | none => .fatal addr s
    | some b =>
      chunkCopy n (i + 1) (setVram (vramBank s * 0x2000 + ((s.hdma.dst - 0x8000#16).toNat + i) % 0x2000) b s)

/-- The engine's registers after a chunk (R451): the source and the destination move on by 16, the destination wrapping
inside video RAM, and 16 bytes less are left. -/
def chunkDone (s : State) : State :=
  { s with
    hdma :=
      { s.hdma with
        src := s.hdma.src + 16
        dst := 0x8000#16 + BitVec.ofNat 16 (((s.hdma.dst - 0x8000#16).toNat + 16) % 0x2000)
        len := s.hdma.len - 16 } }

/-- `CopyChunk()` (R451). -/
def copyChunk (s : State) : Res Unit :=
  match chunkCopy 16 0 s with
  | .ok _ t => .ok () (chunkDone t)
  | .fatal addr t => .fatal addr t

/-- `n` chunks one after another (R452, the immediate transfer). -/
def copyChunks : Nat → State → Res Unit
  | 0, s => .ok () s
  | n + 1, s =>
    match copyChunk s with
    | .ok _ t => copyChunks n t
    | .fatal addr t => .fatal addr t

/-- `hdma_active <- b` (R45). -/
def setHdmaActive (b : Bool) (s : State) : State := { s with hdma := { s.hdma with active := b } }

/-- The engine's registers as a start loads them from `HDMA1` to `HDMA4` and the written byte (R452). -/
def hdmaLoad (v : Byte) (s : State) : State :=
  { s with
    hdma :=
      { s.hdma with
        src := (io s 0x51 ++ io s 0x52) &&& 0xFFF0#16
        dst := 0x8000#16 ||| ((io s 0x53 ++ io s 0x54) &&& 0x1FF0#16)
        len := (v.toNat % 128 + 1) * 16 } }

/-- `WriteHDMA5(v)` (R452): cancel, start a stepped transfer, or copy the whole of an immediate one. -/
def hdma5Write (v : Byte) (s : State) : Res Unit :=
  if s.hdma.active = true ∧ v.getLsbD 7 = false then .ok () (setHdmaActive false s)
  else
    let s1 := hdmaLoad v s
    if v.getLsbD 7 = true then .ok () (setHdmaActive true s1)
    else if s1.setup.gdmaImmediate then
      match copyChunks (v.toNat % 128 + 1) s1 with
      | .ok _ t => .ok () (setHdmaActive false t)
      | .fatal addr t => .fatal addr t
    else .ok () (setHdmaActive true s1)

/-! ### The I/O writes (R101 to R113) -/

/-- The write to `DIV` (R102). -/
def divWrite (s : State) : State :=
  let s1 := setIo 0x04 0x00 s
  { s1 with timer := { s1.timer with divReset := true } }

/-- The write to `LCDC` (R103): a write that clears the display-enable bit when it was set forces scanline 0 and H-blank
and runs the coincidence check. -/
def lcdcWrite (v : Byte) (s : State) : State :=
  let old := lcdc s
  let s1 := setIo 0x40 v s
  if old.getLsbD 7 = true ∧ v.getLsbD 7 = false then
    coincidenceCheck (setPpuCyc 0 (setMode .hBlank (setIo 0x44 0 s1)))
  else s1

/-- The write to `STAT` (R104): bits 7 to 3 are stored, bits 2 to 0 kept. -/
def statWrite (v : Byte) (s : State) : State := setIo 0x41 (v.extractLsb' 3 5 ++ (stat s).extractLsb' 0 3) s

/-- The write to `LYC` (R105). -/
def lycWrite (v : Byte) (s : State) : State := coincidenceCheck (setIo 0x45 v s)

/-- The write to `BOOTOFF` (R107). -/
def bootoffWrite (v : Byte) (s : State) : State :=
  let s1 := setIo 0x50 v s
  { s1 with ctl := { s1.ctl with bootActive := false } }

/-- The write to `SB` (R112): the byte is stored and, if a sink is installed, handed to it. -/
def sbWrite (v : Byte) (s : State) : State :=
  let s1 := setIo 0x01 v s
  if s1.setup.serialSink then { s1 with host := { s1.host with serialOut := s1.host.serialOut ++ [v] } } else s1

/-- The write to `P1` (R111): the select bits and nothing else. -/
def p1Write (v : Byte) (s : State) : State := { s with ctl := { s.ctl with joySelect := v.extractLsb' 4 2 } }

/-- The write to `KEY1` (R110): bit 7 is kept. -/
def key1Write (v : Byte) (s : State) : State := setIo 0x4D ((key1 s).extractLsb' 7 1 ++ v.extractLsb' 0 7) s

/-- A palette index register after a store through its data port (R108): one more modulo 64 if bit 7 is set, bits 7 and 6
kept. -/
def palIndexAfter (ps : Byte) : Byte :=
  if ps.getLsbD 7 then ps.extractLsb' 6 2 ++ (ps.extractLsb' 0 6 + 1) else ps

/-- The write to `BCPD` (R108). -/
def bcpdWrite (v : Byte) (s : State) : State :=
  let ps := bcps s
  setIo 0x68 (palIndexAfter ps) { s with mem := { s.mem with bgpal := Memory.put s.mem.bgpal (palIndex ps) v } }

/-- The write to `OCPD` (R108). -/
def ocpdWrite (v : Byte) (s : State) : State :=
  let ps := ocps s
  setIo 0x6A (palIndexAfter ps) { s with mem := { s.mem with objpal := Memory.put s.mem.objpal (palIndex ps) v } }

/-- The rows of R101 marked `CGB`; on `DMG` their addresses are plain storage (R71). -/
def cgbIoWrite (n : Nat) (v : Byte) (s : State) : Res Unit :=
  if n = 0x4D then .ok () (key1Write v s)
  else if n = 0x55 then hdma5Write v s
  else if n = 0x69 then .ok () (bcpdWrite v s)
  else if n = 0x6B then .ok () (ocpdWrite v s)
  else .ok () (setIo n v s)

/-- A write of `v` to `0xFF00 + n` with `n < 0x80` (R101).
`VBK` and `SVBK` need no row of their own: the banks are read from the stored bytes (R109). -/
def ioWrite (n : Nat) (v : Byte) (s : State) : Res Unit :=
  if n = 0x00 then .ok () (p1Write v s)
  else if n = 0x01 then .ok () (sbWrite v s)
  else if n = 0x04 then .ok () (divWrite s)
  else if n = 0x40 then .ok () (lcdcWrite v s)
  else if n = 0x41 then .ok () (statWrite v s)
  else if n = 0x44 then .ok () s
  else if n = 0x45 then .ok () (lycWrite v s)
  else if n = 0x46 then dmaWrite v s
  else if n = 0x50 then .ok () (bootoffWrite v s)
  else if isCgb s then cgbIoWrite n v s
  else .ok () (setIo n v s)

/-- `writeByte(addr, v)` (R82), with every side effect; a faulting write stores nothing (R115). -/
def writeByte (s : State) (addr : Word) (v : Byte) : Res Unit :=
  match locate s addr with
  | .boot _ => .ok () (bankWrite addr v s)
  | .rom _ => .ok () (bankWrite addr v s)
  | .vram off => .ok () (setVram off v s)
  | .eram off => .ok () (setEram off v s)
  | .wram off => .ok () (setWram off v s)
  | .oam off => .ok () (setOam off v s)
  | .io n => ioWrite n v s
  | .hram off => .ok () (setHram off v s)
  | .ie => .ok () (setIe v s)
  | .nothing => .fatal addr s

/-- `readWord(addr)` (R83): low byte at `addr`, high byte at `addr + 1` modulo `2^16`, the low one read first. -/
def readWord (s : State) (addr : Word) : Res Word :=
  match readByte s addr with
  | none => .fatal addr s
  | some lo =>
    match readByte s (addr + 1) with
    | none => .fatal (addr + 1) s
    | some hi => .ok (hi ++ lo) s

/-- `writeWord(addr, w)` (R83): the low byte first. -/
def writeWord (s : State) (addr : Word) (w : Word) : Res Unit :=
  match writeByte s addr (loByte w) with
  | .fatal bad t => .fatal bad t
  | .ok _ t => writeByte t (addr + 1) (hiByte w)

end Sys2Proof.Machine
end

