-- ==== Sys2Proof/Machine/Render.lean ====
section
/-! DEFINITION. Scanline compositing and colour resolution (R430 to R444).
The Pixel Processor reads the memories directly, not through the Bus (R430). -/

namespace Sys2Proof.Machine

/-- `SCREEN_W` (R431). -/
def screenWidth (s : State) : Nat := s.setup.display.screenW

/-- `SCREEN_H` (R431). -/
def screenHeight (s : State) : Nat := s.setup.display.screenH

/-- `vram[bank][off]` (R33, R430). -/
def vramAt (s : State) (bank off : Nat) : Byte := Memory.get s.mem.vram (bank * 0x2000 + off)

/-! ### Colours -/

/-- `c8(v)` (R444): five bits to eight. -/
def expand5 (v : BitVec 5) : Byte := v ++ v.extractLsb' 2 3

/-- `Out(Colour15(mem, p, idx))` (R444). -/
def cgbColour (s : State) (pal : Memory) (p : BitVec 3) (idx : BitVec 2) : Rgba :=
  let at_ := p.toNat * 8 + idx.toNat * 2
  let w := Memory.get pal (at_ + 1) ++ Memory.get pal at_
  let r := w.extractLsb' 0 5
  let g := w.extractLsb' 5 5
  let b := w.extractLsb' 10 5
  if s.setup.colorCorrection then
    let out := Config.colorCorrect r g b
    ⟨out.1, out.2.1, out.2.2, 0xFF⟩
  else ⟨expand5 r, expand5 g, expand5 b, 0xFF⟩

/-- The shade that a monochrome palette register gives a colour index (R443). -/
def dmgColour (palette : Byte) (idx : BitVec 2) : Rgba := Config.dmgShade (palette.extractLsb' (2 * idx.toNat) 2)

/-- `BgColour(p, idx)` (R443, R444). -/
def bgColour (s : State) (p : BitVec 3) (idx : BitVec 2) : Rgba :=
  if isCgb s then cgbColour s s.mem.bgpal p idx else dmgColour (bgp s) idx

/-- `ObjColour(attr, idx)` (R443, R444). -/
def objColour (s : State) (attr : Byte) (idx : BitVec 2) : Rgba :=
  if isCgb s then cgbColour s s.mem.objpal (attr.extractLsb' 0 3) idx
  else dmgColour (if attr.getLsbD 4 then obp1 s else obp0 s) idx

/-- What a pixel holds before the passes (R431, R440): background colour index 0, which on `DMG` is shade 0 itself. -/
def blankColour (s : State) : Rgba := if isCgb s then bgColour s 0 0 else Config.dmgShade 0

/-! ### Tiles -/

/-- `TileAddrBG(t) - 0x8000` (R433). -/
def tileOffsetBg (s : State) (t : Byte) : Nat :=
  if (lcdc s).getLsbD 4 then t.toNat * 16
  else if t.toNat < 128 then 0x1000 + t.toNat * 16 else t.toNat * 16

/-- `TileAddrOBJ(t) - 0x8000` (R433). -/
def tileOffsetObj (t : Byte) : Nat := t.toNat * 16

/-- `TilePixel(bank, addr, r, k)` (R433), with the tile named by its offset in video RAM. -/
def tilePixel (s : State) (bank off r k : Nat) : BitVec 2 :=
  BitVec.ofBool ((vramAt s bank (off + 2 * r + 1)).getLsbD (7 - k)) ++
    BitVec.ofBool ((vramAt s bank (off + 2 * r)).getLsbD (7 - k))

/-- A map pixel (R432, R434, R437): the entry of point `(x, y)` of the map at `base` gives the tile, its attributes and
so the colour index, the priority bit and the colour. -/
def mapPixel (s : State) (base x y : Nat) : BgInfo × Rgba :=
  let entry := base + y / 8 * 32 + x / 8
  let t := vramAt s 0 entry
  let attr : Byte := if isCgb s then vramAt s 1 entry else 0
  let r := if attr.getLsbD 6 then 7 - y % 8 else y % 8
  let k := if attr.getLsbD 5 then 7 - x % 8 else x % 8
  let bank := if attr.getLsbD 3 then 1 else 0
  let idx := tilePixel s bank (tileOffsetBg s t) r k
  (⟨idx, attr.getLsbD 7⟩, bgColour s (attr.extractLsb' 0 3) idx)

/-- The offset in video RAM of the tile map that a bit of `LCDC` selects (R55, R437). -/
def mapBase (high : Bool) : Nat := if high then 0x1C00 else 0x1800

/-- The background pass is not skipped (R432, R440). -/
def backgroundOn (s : State) : Bool := isCgb s || (lcdc s).getLsbD 0

/-- `RenderBackground(ly)` at one pixel (R432). -/
def backgroundPixel (s : State) (line px : Nat) : BgInfo × Rgba :=
  mapPixel s (mapBase ((lcdc s).getLsbD 3)) ((px + (scx s).toNat) % 256) ((line + (scy s).toNat) % 256)

/-- The window covers pixel `px` of the line (R434): its left edge `WX - 7` is left of `SCREEN_W`. -/
def windowCovers (s : State) (line px : Nat) : Bool :=
  (lcdc s).getLsbD 5 && backgroundOn s && decide ((wyReg s).toNat ≤ line) &&
    decide ((wxReg s).toNat < screenWidth s + 7) && decide ((wxReg s).toNat ≤ px + 7)

/-- `RenderWindow(ly)` at one pixel that the window covers (R434). -/
def windowPixel (s : State) (line px : Nat) : BgInfo × Rgba :=
  mapPixel s (mapBase ((lcdc s).getLsbD 6)) (px + 7 - (wxReg s).toNat) (line - (wyReg s).toNat)

/-- What the background and window passes leave at one pixel (R431): the window over the background over the blank. -/
def layerPixel (s : State) (line px : Nat) : BgInfo × Rgba :=
  if windowCovers s line px then windowPixel s line px
  else if backgroundOn s then backgroundPixel s line px
  else (⟨0, false⟩, blankColour s)

/-! ### Sprites -/

/-- `Hidden(attr, linebg[px])` (R441). -/
def spriteHidden (s : State) (attr : Byte) (bg : BgInfo) : Bool :=
  if bg.index = 0 then false
  else if isCgb s then (lcdc s).getLsbD 0 && (attr.getLsbD 7 || bg.prio)
  else attr.getLsbD 7

/-- The height of a sprite (R435). -/
def spriteHeight (s : State) : Nat := if (lcdc s).getLsbD 2 then 16 else 8

/-- The colour object entry `n` draws at a pixel of the line, if it draws there (R435, R436). -/
def spritePixel (s : State) (line px : Nat) (bg : BgInfo) (n : Nat) : Option Rgba :=
  let y := (Memory.get s.mem.oam (4 * n)).toNat
  let x := (Memory.get s.mem.oam (4 * n + 1)).toNat
  let t := Memory.get s.mem.oam (4 * n + 2)
  let attr := Memory.get s.mem.oam (4 * n + 3)
  let h := spriteHeight s
  if y ≤ line + 16 ∧ line + 16 < y + h ∧ x ≤ px + 8 ∧ px < x then
    let row := line + 16 - y
    let r := if attr.getLsbD 6 then h - 1 - row else row
    let col := px + 8 - x
    let k := if attr.getLsbD 5 then 7 - col else col
    let tile := if h = 16 then t &&& 0xFE else t
    let bank := if isCgb s && attr.getLsbD 3 then 1 else 0
    let idx := tilePixel s bank (tileOffsetObj tile) r k
    if idx = 0 then none else if spriteHidden s attr bg then none else some (objColour s attr idx)
  else none

/-- The object entries in the order they are drawn: entry 0 last (R435). -/
def spriteOrder : List Nat := (List.range 40).reverse

/-- `RenderSprites(ly)` at one pixel (R435): each entry that draws there replaces the colour. -/
def spritesOver (s : State) (line px : Nat) (below : BgInfo × Rgba) : Rgba :=
  if (lcdc s).getLsbD 1 then
    spriteOrder.foldl (fun colour n => (spritePixel s line px below.1 n).getD colour) below.2
  else below.2

/-! ### The scanline -/

/-- The frame with a row rendered anew, rows in rising order. -/
def putRow (row : Nat) (pixels : List Rgba) : Frame → Frame
  | [] => [(row, pixels)]
  | (i, old) :: rest =>
    if row < i then (row, pixels) :: (i, old) :: rest
    else if row = i then (row, pixels) :: rest
    else (i, old) :: putRow row pixels rest

/-- Pixel `(row, col)` of a frame: unspecified where no line was rendered (R46). -/
def framePixel (f : Frame) (row col : Nat) : Rgba :=
  match f.lookup row with
  | some pixels => pixels.getD col (Config.unrenderedPixel row col)
  | none => Config.unrenderedPixel row col

/-- Entry `px` of `linebg` (R46), unspecified before a line was rendered. -/
def linebgAt (p : PpuState) (px : Nat) : BgInfo :=
  p.linebg.getD px ⟨(Config.unrenderedBg px).1, (Config.unrenderedBg px).2⟩

/-- `RenderScanline(ly)` (R431): `linebg`, and row `ly` of the frame, which has `SCREEN_H` rows (R46). -/
def renderScanline (line : Nat) (s : State) : State :=
  let layers := (List.range (screenWidth s)).map (fun px => (px, layerPixel s line px))
  { s with
    ppu :=
      { s.ppu with
        linebg := layers.map (fun l => l.2.1)
        frame :=
          if line < screenHeight s then putRow line (layers.map (fun l => spritesOver s line l.1 l.2)) s.ppu.frame
          else s.ppu.frame } }

end Sys2Proof.Machine
end

