-- ==== Sys2Proof/Machine/Ppu.lean ====
section
/-! DEFINITION. The Pixel Processor's mode state machine, the frame hand-over and the H-blank DMA step (R410 to R414,
R446, R453). -/

namespace Sys2Proof.Machine

/-- The cycles a mode lasts, in V-blank one of its lines (R8, R412). -/
def modeCycles (s : State) (m : PpuMode) : Nat :=
  match m with
  | .oamSearch => s.setup.display.oam
  | .pixelTransfer => s.setup.display.xfer
  | .hBlank => s.setup.display.hblank
  | .vBlank => s.setup.display.line

/-- `Request(1)` if bit `i` of `STAT` enables it (R412, R414). -/
def statRequest (i : Nat) (s : State) : State := if (stat s).getLsbD i then request 1 s else s

/-- `FrameReady()` (R446): the frame is handed to the host. -/
def frameReady (s : State) : State :=
  { s with host := { s.host with frameCount := s.host.frameCount + 1, frameOut := some s.ppu.frame } }

/-- `HdmaStep()` (R453). -/
def hdmaStep (s : State) : Res Unit :=
  match copyChunk s with
  | .fatal addr t => .fatal addr t
  | .ok _ t => if t.hdma.len = 0 then .ok () (setHdmaActive false t) else .ok () t

/-- `LY <- v` (R58, R412). -/
def setLy (v : Byte) (s : State) : State := setIo 0x44 v s

/-- The end of OAM-search (R412). -/
def leaveOamSearch (s : State) : State := setMode .pixelTransfer s

/-- The end of pixel-transfer (R412): the line is rendered, H-blank entered, and an active transfer moves a chunk. -/
def leavePixelTransfer (s : State) : Res Unit :=
  let s1 := statRequest 3 (setMode .hBlank (renderScanline (ly s).toNat s))
  if isCgb s1 ∧ s1.hdma.active = true then hdmaStep s1 else .ok () s1

/-- The end of H-blank (R412): the next line, or V-blank after the last visible line, 143 by default. -/
def leaveHBlank (s : State) : State :=
  let s1 := coincidenceCheck (setLy (ly s + 1) s)
  if (ly s1).toNat = s.setup.display.visible then frameReady (statRequest 4 (request 0 (setMode .vBlank s1)))
  else statRequest 5 (setMode .oamSearch s1)

/-- The end of a line of V-blank (R412): the next line, or line 0 after the last line, 153 by default. -/
def leaveVBlankLine (s : State) : State :=
  if (ly s).toNat + 1 = s.setup.display.lines then coincidenceCheck (statRequest 5 (setMode .oamSearch (setLy 0 s)))
  else coincidenceCheck (setLy (ly s + 1) s)

/-- One transition of the mode machine, its cycles taken off the counter (R412); only if one fires. -/
def ppuTransition (s : State) : Res Unit :=
  let s1 := setPpuCyc (s.ppu.cyc - modeCycles s (ppuMode s)) s
  match ppuMode s with
  | .oamSearch => .ok () (leaveOamSearch s1)
  | .pixelTransfer => leavePixelTransfer s1
  | .hBlank => .ok () (leaveHBlank s1)
  | .vBlank => .ok () (leaveVBlankLine s1)

/-- Transitions while one fires, at most `fuel` of them (R412). -/
def ppuRun : Nat → State → Res Unit
  | 0, s => .ok () s
  | fuel + 1, s =>
    if modeCycles s (ppuMode s) ≤ s.ppu.cyc then
      match ppuTransition s with
      | .fatal addr t => .fatal addr t
      | .ok _ t => ppuRun fuel t
    else .ok () s

/-- `PpuAdvance(c)` (R411, R412).
Every transition takes at least one cycle off the counter (`Display.wf`), so the fuel never runs out. -/
def ppuAdvance (c : Nat) (s : State) : Res Unit :=
  if (lcdc s).getLsbD 7 then
    let cyc := s.ppu.cyc + c
    ppuRun (cyc + 1) (setPpuCyc cyc s)
  else .ok () s

end Sys2Proof.Machine
end

