-- ==== Sys2Proof/WellFormed.lean ====
section
/-! DEFINITION. Which terms of Instr the encodings of the spec can name (R143): three checks, one per operand table. -/

namespace Sys2Proof

/-- A register of the operand table `r` (R143): one of `B C D E H L A`, `F` cannot be named (R170). -/
def Reg8.nameable : Reg8 → Bool
  | .f => false
  | _ => true

/-- A pair of the operand table `rp` (R143): one of `BC DE HL SP`. -/
def Reg16.inRp : Reg16 → Bool
  | .af => false
  | _ => true

/-- A pair of the operand table `rp2` (R143): one of `BC DE HL AF`. -/
def Reg16.inRp2 : Reg16 → Bool
  | .sp => false
  | _ => true

/-- Every operand is one its encoding can hold.
`POP AF` is a row of its own, so the pair of `popRr` is one of `BC DE HL` (R206). -/
def Instr.wf : Instr → Bool
  | .incR r | .decR r | .ldRD8 r _ | .ldRHl r | .ldHlR r => r.nameable
  | .ldRR dst src => dst.nameable && src.nameable
  | .addR r | .adcR r | .subR r | .sbcR r | .andR r | .xorR r | .orR r | .cpR r => r.nameable
  | .rlcR r | .rrcR r | .rlR r | .rrR r | .slaR r | .sraR r | .swapR r | .srlR r => r.nameable
  | .bitBR _ r | .resBR _ r | .setBR _ r => r.nameable
  | .ldRrD16 rr _ | .addHlRr rr | .incRr rr | .decRr rr => rr.inRp
  | .pushRr rr => rr.inRp2
  | .popRr rr => rr.inRp && rr.inRp2
  | .nop | .ldA16Sp _ | .stop _ | .jrE8 _ | .jrCcE8 _ _ => true
  | .ldBcA | .ldDeA | .ldHliA | .ldHldA | .ldABc | .ldADe | .ldAHli | .ldAHld => true
  | .incHl | .decHl | .ldHlD8 _ => true
  | .rlca | .rrca | .rla | .rra | .daa | .cpl | .scf | .ccf | .halt => true
  | .addHl | .addD8 _ | .adcHl | .adcD8 _ | .subHl | .subD8 _ | .sbcHl | .sbcD8 _ => true
  | .andHl | .andD8 _ | .xorHl | .xorD8 _ | .orHl | .orD8 _ | .cpHl | .cpD8 _ => true
  | .retCc _ | .ldhA8A _ | .addSpE8 _ | .ldhAA8 _ | .ldHlSpE8 _ | .popAf | .ret | .reti => true
  | .jpHl | .ldSpHl | .jpCcA16 _ _ | .ldhCA | .ldA16A _ | .ldhAC | .ldAA16 _ | .jpA16 _ => true
  | .prefixCb | .di | .ei | .callCcA16 _ _ | .callA16 _ | .rstN _ => true
  | .undefinedD3 | .undefinedDB | .undefinedDD | .undefinedE3 | .undefinedE4 | .undefinedEB => true
  | .undefinedEC | .undefinedED | .undefinedF4 | .undefinedFC | .undefinedFD => true
  | .rlcHl | .rrcHl | .rlHl | .rrHl | .slaHl | .sraHl | .swapHl | .srlHl => true
  | .bitBHl _ | .resBHl _ | .setBHl _ => true

end Sys2Proof
end

