-- ==== Sys2Proof/Decode.lean ====
section
/-! DEFINITION. The decoder, total on any bytes, and after it the encoder (R140 to R158). -/

namespace Sys2Proof

/-- `x = op[7:6]` (R142). -/
def fieldX (op : Byte) : BitVec 2 := op.extractLsb' 6 2
/-- `y = op[5:3]` (R142). -/
def fieldY (op : Byte) : BitVec 3 := op.extractLsb' 3 3
/-- `z = op[2:0]` (R142). -/
def fieldZ (op : Byte) : BitVec 3 := op.extractLsb' 0 3
/-- `p = op[5:4]` (R142). -/
def fieldP (op : Byte) : BitVec 2 := op.extractLsb' 4 2
/-- `q = op[3]` (R142). -/
def fieldQ (op : Byte) : BitVec 1 := op.extractLsb' 3 1
/-- `cc = op[4:3]` (R142, R310). -/
def fieldCc (op : Byte) : BitVec 2 := op.extractLsb' 3 2

/-- The operand table `r` (R143); index 6 is the memory operand `(HL)`, no register. -/
def regOfIndex : BitVec 3 → Option Reg8
  | 0#3 => some .b
  | 1#3 => some .c
  | 2#3 => some .d
  | 3#3 => some .e
  | 4#3 => some .h
  | 5#3 => some .l
  | 7#3 => some .a
  | _ => none

/-- The operand table `rp` (R143). -/
def rpOfIndex : BitVec 2 → Reg16
  | 0#2 => .bc
  | 1#2 => .de
  | 2#2 => .hl
  | _ => .sp

/-- The operand table `rp2` (R143). -/
def rp2OfIndex : BitVec 2 → Reg16
  | 0#2 => .bc
  | 1#2 => .de
  | 2#2 => .hl
  | _ => .af

/-- The operand table `cc` (R143). -/
def condOfIndex : BitVec 2 → Cond
  | 0#2 => .nz
  | 1#2 => .z
  | 2#2 => .nc
  | _ => .c

/-- The instruction with register operand `r[i]`, or its `(HL)` sibling row at index 6 (R143). -/
def withReg (i : BitVec 3) (reg : Reg8 → Instr) (hl : Instr) : Instr :=
  match regOfIndex i with
  | some r => reg r
  | none => hl

/-- `alu[y] r[z]` (R143, R149). -/
def decodeAluR (y z : BitVec 3) : Instr :=
  match y with
  | 0#3 => withReg z .addR .addHl
  | 1#3 => withReg z .adcR .adcHl
  | 2#3 => withReg z .subR .subHl
  | 3#3 => withReg z .sbcR .sbcHl
  | 4#3 => withReg z .andR .andHl
  | 5#3 => withReg z .xorR .xorHl
  | 6#3 => withReg z .orR .orHl
  | _ => withReg z .cpR .cpHl

/-- `alu[y] d8` (R143, R150). -/
def decodeAluD8 (y : BitVec 3) (d8 : Byte) : Instr :=
  match y with
  | 0#3 => .addD8 d8
  | 1#3 => .adcD8 d8
  | 2#3 => .subD8 d8
  | 3#3 => .sbcD8 d8
  | 4#3 => .andD8 d8
  | 5#3 => .xorD8 d8
  | 6#3 => .orD8 d8
  | _ => .cpD8 d8

/-- `rot[y] r[z]` (R143, R151). -/
def decodeRot (y z : BitVec 3) : Instr :=
  match y with
  | 0#3 => withReg z .rlcR .rlcHl
  | 1#3 => withReg z .rrcR .rrcHl
  | 2#3 => withReg z .rlR .rlHl
  | 3#3 => withReg z .rrR .rrHl
  | 4#3 => withReg z .slaR .slaHl
  | 5#3 => withReg z .sraR .sraHl
  | 6#3 => withReg z .swapR .swapHl
  | _ => withReg z .srlR .srlHl

/-- The secondary table, by the byte after the escape (R151): all 256 values are defined. -/
def decodeSecondary (op2 : Byte) : Instr :=
  let y := fieldY op2
  let z := fieldZ op2
  match fieldX op2 with
  | 0#2 => decodeRot y z
  | 1#2 => withReg z (.bitBR y) (.bitBHl y)
  | 2#2 => withReg z (.resBR y) (.resBHl y)
  | _ => withReg z (.setBR y) (.setBHl y)

/-- Quarter `x = 0` of the main table (R148); `lo` and `hi` are bytes 1 and 2. -/
def decodeX0 (op lo hi : Byte) : Instr :=
  let y := fieldY op
  let p := fieldP op
  let q := fieldQ op
  match fieldZ op with
  | 0#3 =>
    match y with
    | 0#3 => .nop
    | 1#3 => .ldA16Sp (hi ++ lo)
    | 2#3 => .stop lo
    | 3#3 => .jrE8 lo
    | _ => .jrCcE8 (condOfIndex (fieldCc op)) lo
  | 1#3 => if q = 0#1 then .ldRrD16 (rpOfIndex p) (hi ++ lo) else .addHlRr (rpOfIndex p)
  | 2#3 =>
    match y with
    | 0#3 => .ldBcA
    | 1#3 => .ldABc
    | 2#3 => .ldDeA
    | 3#3 => .ldADe
    | 4#3 => .ldHliA
    | 5#3 => .ldAHli
    | 6#3 => .ldHldA
    | _ => .ldAHld
  | 3#3 => if q = 0#1 then .incRr (rpOfIndex p) else .decRr (rpOfIndex p)
  | 4#3 => withReg y .incR .incHl
  | 5#3 => withReg y .decR .decHl
  | 6#3 => withReg y (fun r => .ldRD8 r lo) (.ldHlD8 lo)
  | _ =>
    match y with
    | 0#3 => .rlca
    | 1#3 => .rrca
    | 2#3 => .rla
    | 3#3 => .rra
    | 4#3 => .daa
    | 5#3 => .cpl
    | 6#3 => .scf
    | _ => .ccf

/-- Quarter `x = 1` of the main table (R149); `y = 6, z = 6` is `HALT`. -/
def decodeX1 (op : Byte) : Instr :=
  match regOfIndex (fieldY op), regOfIndex (fieldZ op) with
  | some dst, some src => .ldRR dst src
  | some dst, none => .ldRHl dst
  | none, some src => .ldHlR src
  | none, none => .halt

/-- Quarter `x = 3` of the main table (R150, R152). -/
def decodeX3 (op lo hi : Byte) : Instr :=
  let y := fieldY op
  let p := fieldP op
  let q := fieldQ op
  let cc := condOfIndex (fieldCc op)
  match fieldZ op with
  | 0#3 =>
    match y with
    | 4#3 => .ldhA8A lo
    | 5#3 => .addSpE8 lo
    | 6#3 => .ldhAA8 lo
    | 7#3 => .ldHlSpE8 lo
    | _ => .retCc cc
  | 1#3 =>
    if q = 0#1 then (if p = 3#2 then .popAf else .popRr (rp2OfIndex p))
    else
      match p with
      | 0#2 => .ret
      | 1#2 => .reti
      | 2#2 => .jpHl
      | _ => .ldSpHl
  | 2#3 =>
    match y with
    | 4#3 => .ldhCA
    | 5#3 => .ldA16A (hi ++ lo)
    | 6#3 => .ldhAC
    | 7#3 => .ldAA16 (hi ++ lo)
    | _ => .jpCcA16 cc (hi ++ lo)
  | 3#3 =>
    match y with
    | 0#3 => .jpA16 (hi ++ lo)
    | 1#3 => decodeSecondary lo
    | 2#3 => .undefinedD3
    | 3#3 => .undefinedDB
    | 4#3 => .undefinedE3
    | 5#3 => .undefinedEB
    | 6#3 => .di
    | _ => .ei
  | 4#3 =>
    match y with
    | 4#3 => .undefinedE4
    | 5#3 => .undefinedEC
    | 6#3 => .undefinedF4
    | 7#3 => .undefinedFC
    | _ => .callCcA16 cc (hi ++ lo)
  | 5#3 =>
    if q = 0#1 then .pushRr (rp2OfIndex p)
    else
      match p with
      | 0#2 => .callA16 (hi ++ lo)
      | 1#2 => .undefinedDD
      | 2#2 => .undefinedED
      | _ => .undefinedFD
  | 6#3 => decodeAluD8 y lo
  | _ => .rstN y

/-- The instruction whose first byte is `op` and whose bytes 1 and 2, where it has them, are `lo` and `hi` (R146): the
main table, and behind the escape `0xCB` the secondary table with `lo` as its index. -/
def decodeOp (op lo hi : Byte) : Instr :=
  match fieldX op with
  | 0#2 => decodeX0 op lo hi
  | 1#2 => decodeX1 op
  | 2#2 => decodeAluR (fieldY op) (fieldZ op)
  | _ => decodeX3 op lo hi

/-- The number of bytes of the instruction that starts with `op` (R140, the second grid of R147; 2 behind the escape,
R151). -/
def lengthOf (op : Byte) : Nat :=
  let y := fieldY op
  match fieldX op, fieldZ op with
  | 0#2, 0#3 => if y = 0#3 then 1 else if y = 1#3 then 3 else 2
  | 0#2, 1#3 => if fieldQ op = 0#1 then 3 else 1
  | 0#2, 6#3 => 2
  | 3#2, 0#3 => if y < 4#3 then 1 else 2
  | 3#2, 2#3 => if y < 4#3 then 3 else if y = 5#3 ∨ y = 7#3 then 3 else 1
  | 3#2, 3#3 => if y = 0#3 then 3 else if y = 1#3 then 2 else 1
  | 3#2, 4#3 => if y < 4#3 then 3 else 1
  | 3#2, 5#3 => if y = 1#3 then 3 else 1
  | 3#2, 6#3 => 2
  | _, _ => 1

/-- Why the decoder gives no instruction for a list of bytes. -/
inductive DecodeReject where
  /-- There is no first byte. -/
  | noBytes
  /-- The list ends inside the instruction that `op` starts, which has `need` bytes. -/
  | truncated (op : Byte) (need : Nat)
  deriving DecidableEq, Repr

/-- The decoder's answer. -/
inductive Decoded where
  /-- An instruction and how many bytes it took. -/
  | instr (i : Instr) (bytes : Nat)
  | rejected (why : DecodeReject)
  deriving DecidableEq, Repr

/-- The decoder on a list of bytes, the one at the lowest address first (R146): every list gives an instruction (one of
the eleven undefined ones among them) or is rejected by name for being too short.
The escape byte with nothing after it is the row `PREFIX CB` (R335). -/
def decode : List Byte → Decoded
  | [] => .rejected .noBytes
  | [op] =>
    if op = 0xCB#8 then .instr .prefixCb 1
    else if lengthOf op = 1 then .instr (decodeOp op 0 0) 1
    else .rejected (.truncated op (lengthOf op))
  | [op, lo] =>
    if lengthOf op ≤ 2 then .instr (decodeOp op lo 0) (lengthOf op)
    else .rejected (.truncated op 3)
  | op :: lo :: hi :: _ => .instr (decodeOp op lo hi) (lengthOf op)

/-- The bytes of a word numbered as spec/opcode_table.json numbers its rows.
A row of one byte has bits 7 to 0; a row of format `CB` has the escape byte in bits 15 to 8 and the second byte in bits
7 to 0 (R158: the match and mask are over `byte0 ++ byte1`).
Any other word has its first byte in bits 7 to 0 and later bytes above it.
The row `PREFIX CB`, one byte long, is that one byte; every other row is laid out with zero bytes up to the longest
instruction. -/
def tableBytes (nbits w : Nat) : List Byte :=
  if nbits ≤ 8 ∧ w = 0xCB then [0xCB#8]
  else if nbits = 16 ∧ w / 256 = 0xCB then [0xCB#8, BitVec.ofNat 8 w, 0]
  else [BitVec.ofNat 8 w, BitVec.ofNat 8 (w / 256), BitVec.ofNat 8 (w / 65536)]

/-- The instruction the decoder reads from a word of the opcode table. -/
def decodeTableWord (nbits w : Nat) : Option Instr :=
  match decode (tableBytes nbits w) with
  | .instr i _ => some i
  | .rejected _ => none

/-- The index of a register in the operand table `r` (R143); `F` has none (the value 6 stands for it and is used by no
well-formed instruction). -/
def Reg8.index : Reg8 → BitVec 3
  | .b => 0
  | .c => 1
  | .d => 2
  | .e => 3
  | .h => 4
  | .l => 5
  | .f => 6
  | .a => 7

/-- The index of a pair in the operand tables `rp` and `rp2` (R143), which differ in index 3 only. -/
def Reg16.index : Reg16 → BitVec 2
  | .bc => 0
  | .de => 1
  | .hl => 2
  | .sp => 3
  | .af => 3

/-- The index of a condition (R143). -/
def Cond.index : Cond → BitVec 2
  | .nz => 0
  | .z => 1
  | .nc => 2
  | .c => 3

/-- An opcode byte from its fields `x`, `y`, `z` (R142). -/
def packXyz (x : BitVec 2) (y z : BitVec 3) : Byte := x ++ y ++ z

/-- An opcode byte from its fields `x`, `p`, `q`, `z` (R142). -/
def packXpqz (x p : BitVec 2) (q : BitVec 1) (z : BitVec 3) : Byte := x ++ p ++ q ++ z

/-- An opcode byte with the condition in bits 4 to 3 and `hi` in bits 7 to 5 (R142). -/
def packCc (hi : BitVec 3) (cc : Cond) (z : BitVec 3) : Byte := hi ++ cc.index ++ z

/-- An instruction byte followed by a 16-bit immediate, low byte first (R144). -/
def withWord (op : Byte) (w : Word) : List Byte := [op, w.extractLsb' 0 8, w.extractLsb' 8 8]

/-- A secondary opcode behind the escape (R141, format `CB`). -/
def escaped (op2 : Byte) : List Byte := [0xCB, op2]

/-- The bytes of a well-formed instruction, the one at the lowest address first, from the *Encoding* lines of files 40 to
46 of the spec. -/
def encode : Instr → List Byte
  | .nop => [0x00]
  | .ldA16Sp a => withWord 0x08 a
  | .stop pad => [0x10, pad]
  | .jrE8 e => [0x18, e]
  | .jrCcE8 cc e => [packCc 0b001 cc 0, e]
  | .ldRrD16 rr d => withWord (packXpqz 0 rr.index 0 1) d
  | .addHlRr rr => [packXpqz 0 rr.index 1 1]
  | .ldBcA => [0x02]
  | .ldDeA => [0x12]
  | .ldHliA => [0x22]
  | .ldHldA => [0x32]
  | .ldABc => [0x0A]
  | .ldADe => [0x1A]
  | .ldAHli => [0x2A]
  | .ldAHld => [0x3A]
  | .incRr rr => [packXpqz 0 rr.index 0 3]
  | .decRr rr => [packXpqz 0 rr.index 1 3]
  | .incR r => [packXyz 0 r.index 4]
  | .incHl => [0x34]
  | .decR r => [packXyz 0 r.index 5]
  | .decHl => [0x35]
  | .ldRD8 r d => [packXyz 0 r.index 6, d]
  | .ldHlD8 d => [0x36, d]
  | .rlca => [0x07]
  | .rrca => [0x0F]
  | .rla => [0x17]
  | .rra => [0x1F]
  | .daa => [0x27]
  | .cpl => [0x2F]
  | .scf => [0x37]
  | .ccf => [0x3F]
  | .ldRR dst src => [packXyz 1 dst.index src.index]
  | .ldRHl r => [packXyz 1 r.index 6]
  | .ldHlR r => [packXyz 1 6 r.index]
  | .halt => [0x76]
  | .addR r => [packXyz 2 0 r.index]
  | .addHl => [0x86]
  | .addD8 d => [0xC6, d]
  | .adcR r => [packXyz 2 1 r.index]
  | .adcHl => [0x8E]
  | .adcD8 d => [0xCE, d]
  | .subR r => [packXyz 2 2 r.index]
  | .subHl => [0x96]
  | .subD8 d => [0xD6, d]
  | .sbcR r => [packXyz 2 3 r.index]
  | .sbcHl => [0x9E]
  | .sbcD8 d => [0xDE, d]
  | .andR r => [packXyz 2 4 r.index]
  | .andHl => [0xA6]
  | .andD8 d => [0xE6, d]
  | .xorR r => [packXyz 2 5 r.index]
  | .xorHl => [0xAE]
  | .xorD8 d => [0xEE, d]
  | .orR r => [packXyz 2 6 r.index]
  | .orHl => [0xB6]
  | .orD8 d => [0xF6, d]
  | .cpR r => [packXyz 2 7 r.index]
  | .cpHl => [0xBE]
  | .cpD8 d => [0xFE, d]
  | .retCc cc => [packCc 0b110 cc 0]
  | .ldhA8A a => [0xE0, a]
  | .addSpE8 e => [0xE8, e]
  | .ldhAA8 a => [0xF0, a]
  | .ldHlSpE8 e => [0xF8, e]
  | .popRr rr => [packXpqz 3 rr.index 0 1]
  | .popAf => [0xF1]
  | .ret => [0xC9]
  | .reti => [0xD9]
  | .jpHl => [0xE9]
  | .ldSpHl => [0xF9]
  | .jpCcA16 cc a => withWord (packCc 0b110 cc 2) a
  | .ldhCA => [0xE2]
  | .ldA16A a => withWord 0xEA a
  | .ldhAC => [0xF2]
  | .ldAA16 a => withWord 0xFA a
  | .jpA16 a => withWord 0xC3 a
  | .prefixCb => [0xCB]
  | .di => [0xF3]
  | .ei => [0xFB]
  | .callCcA16 cc a => withWord (packCc 0b110 cc 4) a
  | .pushRr rr => [packXpqz 3 rr.index 0 5]
  | .callA16 a => withWord 0xCD a
  | .rstN t => [packXyz 3 t 7]
  | .undefinedD3 => [0xD3]
  | .undefinedDB => [0xDB]
  | .undefinedDD => [0xDD]
  | .undefinedE3 => [0xE3]
  | .undefinedE4 => [0xE4]
  | .undefinedEB => [0xEB]
  | .undefinedEC => [0xEC]
  | .undefinedED => [0xED]
  | .undefinedF4 => [0xF4]
  | .undefinedFC => [0xFC]
  | .undefinedFD => [0xFD]
  | .rlcR r => escaped (packXyz 0 0 r.index)
  | .rlcHl => escaped 0x06
  | .rrcR r => escaped (packXyz 0 1 r.index)
  | .rrcHl => escaped 0x0E
  | .rlR r => escaped (packXyz 0 2 r.index)
  | .rlHl => escaped 0x16
  | .rrR r => escaped (packXyz 0 3 r.index)
  | .rrHl => escaped 0x1E
  | .slaR r => escaped (packXyz 0 4 r.index)
  | .slaHl => escaped 0x26
  | .sraR r => escaped (packXyz 0 5 r.index)
  | .sraHl => escaped 0x2E
  | .swapR r => escaped (packXyz 0 6 r.index)
  | .swapHl => escaped 0x36
  | .srlR r => escaped (packXyz 0 7 r.index)
  | .srlHl => escaped 0x3E
  | .bitBR b r => escaped (packXyz 1 b r.index)
  | .bitBHl b => escaped (packXyz 1 b 6)
  | .resBR b r => escaped (packXyz 2 b r.index)
  | .resBHl b => escaped (packXyz 2 b 6)
  | .setBR b r => escaped (packXyz 3 b r.index)
  | .setBHl b => escaped (packXyz 3 b 6)

end Sys2Proof
end

