-- ==== Sys2Proof/Machine/Flags.lean ====
section
/-! DEFINITION. The arithmetic of the Processor: each function gives its result and the flags it defines, from the exact
integers of R215, R203, R244, R260 and R274. -/

namespace Sys2Proof.Machine

/-- `Add8(a, b, cin)` (R215). -/
def add8 (a b : Byte) (cin : Bool) : Byte × Flags :=
  let sum := a.toNat + b.toNat + cin.toNat
  let r := BitVec.ofNat 8 sum
  (r, { z := r == 0, n := false,
        h := decide (a.toNat % 16 + b.toNat % 16 + cin.toNat > 0x0F), c := decide (sum > 0xFF) })

/-- `Sub8(a, b, cin)` (R215), over the unbounded integers. -/
def sub8 (a b : Byte) (cin : Bool) : Byte × Flags :=
  let diff : Int := (a.toNat : Int) - b.toNat - cin.toNat
  let r := BitVec.ofInt 8 diff
  (r, { z := r == 0, n := true,
        h := decide (((a.toNat % 16 : Nat) : Int) - ((b.toNat % 16 : Nat) : Int) - cin.toNat < 0),
        c := decide (diff < 0) })

/-- `And8(a, b)` (R215). -/
def and8 (a b : Byte) : Byte × Flags :=
  let r := a &&& b
  (r, { z := r == 0, n := false, h := true, c := false })

/-- `Xor8(a, b)` (R215). -/
def xor8 (a b : Byte) : Byte × Flags :=
  let r := a ^^^ b
  (r, { z := r == 0, n := false, h := false, c := false })

/-- `Or8(a, b)` (R215). -/
def or8 (a b : Byte) : Byte × Flags :=
  let r := a ||| b
  (r, { z := r == 0, n := false, h := false, c := false })

/-- `Inc8(v)` (R215); `C` keeps its value (R240). -/
def inc8 (v : Byte) (old : Flags) : Byte × Flags :=
  let r := v + 1
  (r, { z := r == 0, n := false, h := v.extractLsb' 0 4 == 0xF#4, c := old.c })

/-- `Dec8(v)` (R215); `C` keeps its value (R242). -/
def dec8 (v : Byte) (old : Flags) : Byte × Flags :=
  let r := v - 1
  (r, { z := r == 0, n := true, h := v.extractLsb' 0 4 == 0x0#4, c := old.c })

/-- `DAA` (R244). -/
def daa8 (a : Byte) (f : Flags) : Byte × Flags :=
  if f.n = false then
    let high := f.c || decide (a.toNat > 0x99)
    let a1 := if high then a + 0x60 else a
    let a2 := if f.h = true ∨ a1.toNat % 16 > 9 then a1 + 0x06 else a1
    (a2, { z := a2 == 0, n := false, h := false, c := high })
  else
    let a1 := if f.c then a - 0x60 else a
    let a2 := if f.h then a1 - 0x06 else a1
    (a2, { z := a2 == 0, n := true, h := false, c := f.c })

/-- `sext_16(e)` (R14). -/
def sext16 (e : Byte) : Word := e.signExtend 16

/-- `SP +16 sext_16(e)` and its flags (R203, R261): the carries are those of the unsigned addition of the low byte of
`SP` and the raw byte `e`. -/
def addSpOffset (sp : Word) (e : Byte) : Word × Flags :=
  (sp + sext16 e,
    { z := false, n := false, h := decide (sp.toNat % 16 + e.toNat % 16 > 0x0F),
      c := decide (sp.toNat % 256 + e.toNat > 0xFF) })

/-- `ADD HL,rr` (R260): `Z` keeps its value. -/
def addHl16 (a b : Word) (old : Flags) : Word × Flags :=
  let sum := a.toNat + b.toNat
  (BitVec.ofNat 16 sum,
    { z := old.z, n := false, h := decide (a.toNat % 0x1000 + b.toNat % 0x1000 > 0x0FFF),
      c := decide (sum > 0xFFFF) })

/-! ### Rotates and shifts (R274): the result and the bit shifted out -/

/-- `Rlc(v)`. -/
def rlc8 (v : Byte) : Byte × Bool := (v.extractLsb' 0 7 ++ v.extractLsb' 7 1, v.getLsbD 7)
/-- `Rrc(v)`. -/
def rrc8 (v : Byte) : Byte × Bool := (v.extractLsb' 0 1 ++ v.extractLsb' 1 7, v.getLsbD 0)
/-- `Rl(v, cin)`. -/
def rl8 (v : Byte) (cin : Bool) : Byte × Bool := (v.extractLsb' 0 7 ++ BitVec.ofBool cin, v.getLsbD 7)
/-- `Rr(v, cin)`. -/
def rr8 (v : Byte) (cin : Bool) : Byte × Bool := (BitVec.ofBool cin ++ v.extractLsb' 1 7, v.getLsbD 0)
/-- `Sla(v)`. -/
def sla8 (v : Byte) : Byte × Bool := (v.extractLsb' 0 7 ++ 0#1, v.getLsbD 7)
/-- `Sra(v)`. -/
def sra8 (v : Byte) : Byte × Bool := (v.extractLsb' 7 1 ++ v.extractLsb' 1 7, v.getLsbD 0)
/-- `Swap(v)`. -/
def swap8 (v : Byte) : Byte × Bool := (v.extractLsb' 0 4 ++ v.extractLsb' 4 4, false)
/-- `Srl(v)`. -/
def srl8 (v : Byte) : Byte × Bool := (0#1 ++ v.extractLsb' 1 7, v.getLsbD 0)

/-- The flags of a secondary-table rotate or shift (R274). -/
def shiftFlags (res : Byte × Bool) : Flags := { z := res.1 == 0, n := false, h := false, c := res.2 }

/-- The flags of an accumulator rotate of the main table (R274): `Z` is cleared. -/
def accRotateFlags (res : Byte × Bool) : Flags := { z := false, n := false, h := false, c := res.2 }

/-- The flags of `BIT b` on a byte (R291): `C` keeps its value. -/
def bitFlags (v : Byte) (b : BitVec 3) (old : Flags) : Flags :=
  { z := !(v.getLsbD b.toNat), n := false, h := true, c := old.c }

/-- The byte with bit `b` cleared (R293). -/
def clearBit (v : Byte) (b : BitVec 3) : Byte := v &&& ~~~(1#8 <<< b.toNat)

/-- The byte with bit `b` set (R295). -/
def setBit (v : Byte) (b : BitVec 3) : Byte := v ||| (1#8 <<< b.toNat)

end Sys2Proof.Machine
end

