-- ==== Sys2Proof/Machine/Operands.lean ====
section
/-! DEFINITION. The operand forms: fetched bytes, the byte at an address, a condition, the cost of a row (R14,
R143 to R145, R153, R310). -/

namespace Sys2Proof.Machine

/-- `Fetch8()` (R14, R145). -/
def fetch8 (s : State) : Res Byte :=
  match readByte s s.cpu.pc with
  | none => .fatal s.cpu.pc s
  | some v => .ok v (setPc (s.cpu.pc + 1) s)

/-- The bytes of the instruction after its first (R144, R145): as many of bytes 1 and 2 as the length says, low byte
first, zero standing for a byte the instruction does not have. -/
def fetchRest (len : Nat) (s : State) : Res (Byte × Byte) :=
  if len ≤ 1 then .ok (0, 0) s
  else
    match fetch8 s with
    | .fatal addr t => .fatal addr t
    | .ok lo t =>
      if len ≤ 2 then .ok (lo, 0) t
      else
        match fetch8 t with
        | .fatal addr u => .fatal addr u
        | .ok hi u => .ok (lo, hi) u

/-- The address of a high-page operand `(a8)` or `(C)`: `0xFF00 + n` (R144, R181). -/
def highPage (n : Byte) : Word := 0xFF#8 ++ n

/-- `Cond(cc)` (R310). -/
def condHolds (cc : Cond) (f : Flags) : Bool :=
  match cc with
  | .nz => !f.z
  | .z => f.z
  | .nc => !f.c
  | .c => f.c

/-- Continue with the byte at `addr` (`MemRead`, R14), or end in the Processor's fatal condition (R115, R350). -/
def withRead (addr : Word) (s : State) (k : Byte → Out) : Out :=
  match readByte s addr with
  | some v => k v
  | none => processorFatal (.address addr) s

/-- Continue after an operation of the Bus, or end in the Processor's fatal condition with the state it left. -/
def afterBus {α : Type} (r : Res α) (k : α → State → Out) : Out :=
  match r with
  | .ok v t => k v t
  | .fatal addr t => processorFatal (.address addr) t

/-- Continue after the store of `v` at `addr` (`MemWrite`, R14). -/
def withWrite (addr : Word) (v : Byte) (s : State) (k : State → Out) : Out :=
  afterBus (writeByte s addr v) (fun _ t => k t)

/-- The entry of a cost table for an opcode byte: the row of its high nibble, the column of its low nibble (R147). -/
def tableAt (t : CostTable) (op : Byte) : Nat := (t.getD (op.toNat / 16) []).getD (op.toNat % 16) 0

/-- The cost of an instruction, the not-taken one for a conditional transfer: `CYCLES[op]`, or behind the escape
`CYCLES_CB[op2]` (R153). -/
def costOf (c : Costs) (i : Instr) : Nat :=
  match encode i with
  | [] => 0
  | [op] => tableAt c.cycles op
  | op :: op2 :: _ => if op = 0xCB#8 then tableAt c.cyclesCb op2 else tableAt c.cycles op

/-- The cost of a conditional transfer that is taken: `CYCLES_TAKEN[op]` (R153). -/
def takenCostOf (c : Costs) (i : Instr) : Nat :=
  match encode i with
  | [] => 0
  | op :: _ => tableAt c.cyclesTaken op

/-- End the instruction with its cost (R14, R153). -/
def done (i : Instr) (s : State) : Out := .next (setCost (costOf s.setup.costs i) s)

/-- End a conditional transfer that is taken with its cost (R14, R153). -/
def doneTaken (i : Instr) (s : State) : Out := .next (setCost (takenCostOf s.setup.costs i) s)

end Sys2Proof.Machine
end

