-- ==== Sys2Proof/Machine/Ops.lean ====
section
/-! DEFINITION. The stack, and taking an interrupt and returning from one (R200, R201, R320, R352 to R366). -/

namespace Sys2Proof.Machine

/-- `Push16(v)` (R200): the high byte first, at the higher address; `SP` is decremented before each store. -/
def push16 (v : Word) (s : State) : Res Unit :=
  let s1 := setReg16 .sp (s.cpu.sp - 1) s
  match writeByte s1 s1.cpu.sp (hiByte v) with
  | .fatal addr t => .fatal addr t
  | .ok _ s2 =>
    let s3 := setReg16 .sp (s2.cpu.sp - 1) s2
    writeByte s3 s3.cpu.sp (loByte v)

/-- `Pop16()` (R201): the low byte first, from the lower address; `SP` is incremented after each read. -/
def pop16 (s : State) : Res Word :=
  match readByte s s.cpu.sp with
  | none => .fatal s.cpu.sp s
  | some lo =>
    let s1 := setReg16 .sp (s.cpu.sp + 1) s
    match readByte s1 s1.cpu.sp with
    | none => .fatal s1.cpu.sp s1
    | some hi => .ok (hi ++ lo) (setReg16 .sp (s1.cpu.sp + 1) s1)

/-- `HALT_IDLE_CYCLES` (R8, R362). -/
def haltIdleCycles (s : State) : Nat := s.setup.costs.haltIdle

/-- `STOP_IDLE_CYCLES` (R8, R361). -/
def stopIdleCycles (s : State) : Nat := s.setup.costs.stopIdle

/-- `INT_DISPATCH_CYCLES` (R8, R364). -/
def intDispatchCycles (s : State) : Nat := s.setup.costs.intDispatch

/-- `pending = IF & IE & 0x1F` (R355). -/
def pendingInterrupts (s : State) : Byte := ifReg s &&& s.mem.ie &&& 0x1F

/-- The least `i` in 0 to 4 with `pending[i] = 1`: V-Blank first (R353, R364, R365). -/
def firstPending (pending : Byte) : Option Nat := [0, 1, 2, 3, 4].find? (fun i => pending.getLsbD i)

/-- The vector of interrupt `i` (R354). -/
def vector (i : Nat) : Word := BitVec.ofNat 16 (0x0040 + 8 * i)

/-- `IF` without the request bit `i` (R364). -/
def withoutRequest (i : Nat) (v : Byte) : Byte := v &&& ~~~(1#8 <<< i)

/-- Taking interrupt `i` (R364): its request bit and the master enable are cleared, `pc` is saved on the stack, execution
goes on at the vector, and the dispatch cost is added. -/
def takeInterrupt (i : Nat) (s : State) : Res Unit :=
  let s1 := setImePending false (setIme false (setIo 0x0F (withoutRequest i (ifReg s)) s))
  match push16 s1.cpu.pc s1 with
  | .fatal addr t => .fatal addr t
  | .ok _ t => .ok () (addCost (intDispatchCycles t) (setPc (vector i) t))

/-- `Dispatch()` (R364): at most one interrupt, and only with `IME = 1`, `halt = 0` and `stop = 0`. -/
def dispatch (s : State) : Res Unit :=
  if s.cpu.ime = true ∧ s.cpu.halt = false ∧ s.cpu.stop = false then
    match firstPending (pendingInterrupts s) with
    | some i => takeInterrupt i s
    | none => .ok () s
  else .ok () s

/-- Returning from an interrupt (R320): pop `pc`, enable interrupts at once. -/
def returnFromInterrupt (s : State) : Res Unit :=
  match pop16 s with
  | .fatal addr t => .fatal addr t
  | .ok v t => .ok () (setImePending false (setIme true (setPc v t)))

end Sys2Proof.Machine
end

