-- ==== Sys2Proof/Machine/Alu16.lean ====
section
/-! DEFINITION. The 16-bit arithmetic instructions (43_alu16.md). -/

namespace Sys2Proof.Machine

/-- `ADD HL,rr` (R260): `rr` is read before `HL` is written. -/
def execAddHlRr (rr : Reg16) (s : State) : Out :=
  let res := addHl16 (reg16 s .hl) (reg16 s rr) s.cpu.flags
  done (.addHlRr rr) (setFlags res.2 (setReg16 .hl res.1 s))

/-- `ADD SP,e8` (R261). -/
def execAddSpE8 (e8 : Byte) (s : State) : Out :=
  let res := addSpOffset s.cpu.sp e8
  done (.addSpE8 e8) (setFlags res.2 (setReg16 .sp res.1 s))

/-- `INC rr` (R262): no flags. -/
def execIncRr (rr : Reg16) (s : State) : Out := done (.incRr rr) (setReg16 rr (reg16 s rr + 1) s)

/-- `DEC rr` (R263): no flags. -/
def execDecRr (rr : Reg16) (s : State) : Out := done (.decRr rr) (setReg16 rr (reg16 s rr - 1) s)

end Sys2Proof.Machine
end

