-- ==== Sys2Proof/Machine/Alu8.lean ====
section
/-! DEFINITION. The 8-bit arithmetic and logic instructions (42_alu8.md). -/

namespace Sys2Proof.Machine

/-- The accumulator and all four flags take a result of R215. -/
def setAcc (res : Byte × Flags) (s : State) : State := setFlags res.2 (setReg8 .a res.1 s)

/-- An 8-bit register and the flags take a result of `Inc8` or `Dec8` (R240, R242). -/
def setRegFlags (r : Reg8) (res : Byte × Flags) (s : State) : State := setFlags res.2 (setReg8 r res.1 s)

/-- `ADD A,r` (R216). -/
def execAddR (r : Reg8) (s : State) : Out := done (.addR r) (setAcc (add8 s.cpu.a (reg8 s r) false) s)

/-- `ADD A,(HL)` (R217). -/
def execAddHl (s : State) : Out :=
  withRead (reg16 s .hl) s fun v => done .addHl (setAcc (add8 s.cpu.a v false) s)

/-- `ADD A,d8` (R218). -/
def execAddD8 (d8 : Byte) (s : State) : Out := done (.addD8 d8) (setAcc (add8 s.cpu.a d8 false) s)

/-- `ADC A,r` (R219). -/
def execAdcR (r : Reg8) (s : State) : Out := done (.adcR r) (setAcc (add8 s.cpu.a (reg8 s r) s.cpu.flags.c) s)

/-- `ADC A,(HL)` (R220). -/
def execAdcHl (s : State) : Out :=
  withRead (reg16 s .hl) s fun v => done .adcHl (setAcc (add8 s.cpu.a v s.cpu.flags.c) s)

/-- `ADC A,d8` (R221). -/
def execAdcD8 (d8 : Byte) (s : State) : Out := done (.adcD8 d8) (setAcc (add8 s.cpu.a d8 s.cpu.flags.c) s)

/-- `SUB r` (R222). -/
def execSubR (r : Reg8) (s : State) : Out := done (.subR r) (setAcc (sub8 s.cpu.a (reg8 s r) false) s)

/-- `SUB (HL)` (R223). -/
def execSubHl (s : State) : Out :=
  withRead (reg16 s .hl) s fun v => done .subHl (setAcc (sub8 s.cpu.a v false) s)

/-- `SUB d8` (R224). -/
def execSubD8 (d8 : Byte) (s : State) : Out := done (.subD8 d8) (setAcc (sub8 s.cpu.a d8 false) s)

/-- `SBC A,r` (R225). -/
def execSbcR (r : Reg8) (s : State) : Out := done (.sbcR r) (setAcc (sub8 s.cpu.a (reg8 s r) s.cpu.flags.c) s)

/-- `SBC A,(HL)` (R226). -/
def execSbcHl (s : State) : Out :=
  withRead (reg16 s .hl) s fun v => done .sbcHl (setAcc (sub8 s.cpu.a v s.cpu.flags.c) s)

/-- `SBC A,d8` (R227). -/
def execSbcD8 (d8 : Byte) (s : State) : Out := done (.sbcD8 d8) (setAcc (sub8 s.cpu.a d8 s.cpu.flags.c) s)

/-- `AND r` (R228). -/
def execAndR (r : Reg8) (s : State) : Out := done (.andR r) (setAcc (and8 s.cpu.a (reg8 s r)) s)

/-- `AND (HL)` (R229). -/
def execAndHl (s : State) : Out :=
  withRead (reg16 s .hl) s fun v => done .andHl (setAcc (and8 s.cpu.a v) s)

/-- `AND d8` (R230). -/
def execAndD8 (d8 : Byte) (s : State) : Out := done (.andD8 d8) (setAcc (and8 s.cpu.a d8) s)

/-- `XOR r` (R231). -/
def execXorR (r : Reg8) (s : State) : Out := done (.xorR r) (setAcc (xor8 s.cpu.a (reg8 s r)) s)

/-- `XOR (HL)` (R232). -/
def execXorHl (s : State) : Out :=
  withRead (reg16 s .hl) s fun v => done .xorHl (setAcc (xor8 s.cpu.a v) s)

/-- `XOR d8` (R233). -/
def execXorD8 (d8 : Byte) (s : State) : Out := done (.xorD8 d8) (setAcc (xor8 s.cpu.a d8) s)

/-- `OR r` (R234). -/
def execOrR (r : Reg8) (s : State) : Out := done (.orR r) (setAcc (or8 s.cpu.a (reg8 s r)) s)

/-- `OR (HL)` (R235). -/
def execOrHl (s : State) : Out :=
  withRead (reg16 s .hl) s fun v => done .orHl (setAcc (or8 s.cpu.a v) s)

/-- `OR d8` (R236). -/
def execOrD8 (d8 : Byte) (s : State) : Out := done (.orD8 d8) (setAcc (or8 s.cpu.a d8) s)

/-- `CP r` (R237). -/
def execCpR (r : Reg8) (s : State) : Out := done (.cpR r) (setFlags (sub8 s.cpu.a (reg8 s r) false).2 s)

/-- `CP (HL)` (R238). -/
def execCpHl (s : State) : Out :=
  withRead (reg16 s .hl) s fun v => done .cpHl (setFlags (sub8 s.cpu.a v false).2 s)

/-- `CP d8` (R239). -/
def execCpD8 (d8 : Byte) (s : State) : Out := done (.cpD8 d8) (setFlags (sub8 s.cpu.a d8 false).2 s)


/-- `INC r` (R240). -/
def execIncR (r : Reg8) (s : State) : Out := done (.incR r) (setRegFlags r (inc8 (reg8 s r) s.cpu.flags) s)

/-- `INC (HL)` (R241): the store precedes the flags. -/
def execIncHl (s : State) : Out :=
  withRead (reg16 s .hl) s fun v =>
    let res := inc8 v s.cpu.flags
    withWrite (reg16 s .hl) res.1 s fun t => done .incHl (setFlags res.2 t)

/-- `DEC r` (R242). -/
def execDecR (r : Reg8) (s : State) : Out := done (.decR r) (setRegFlags r (dec8 (reg8 s r) s.cpu.flags) s)

/-- `DEC (HL)` (R243): the store precedes the flags. -/
def execDecHl (s : State) : Out :=
  withRead (reg16 s .hl) s fun v =>
    let res := dec8 v s.cpu.flags
    withWrite (reg16 s .hl) res.1 s fun t => done .decHl (setFlags res.2 t)

/-- `DAA` (R244). -/
def execDaa (s : State) : Out := done .daa (setAcc (daa8 s.cpu.a s.cpu.flags) s)

/-- `CPL` (R245). -/
def execCpl (s : State) : Out :=
  done .cpl (setAcc (s.cpu.a ^^^ 0xFF, { s.cpu.flags with n := true, h := true }) s)

/-- `SCF` (R246). -/
def execScf (s : State) : Out := done .scf (setFlags { s.cpu.flags with n := false, h := false, c := true } s)

/-- `CCF` (R247). -/
def execCcf (s : State) : Out :=
  done .ccf (setFlags { s.cpu.flags with n := false, h := false, c := !s.cpu.flags.c } s)

end Sys2Proof.Machine
end

