-- ==== Sys2Proof/Machine/Control.lean ====
section
/-! DEFINITION. The control-transfer instructions (45_control.md). -/

namespace Sys2Proof.Machine

/-- A call (R316): push the address of the next instruction, go on at the target, end as `fin` does. -/
def callTo (target : Word) (fin : State → Out) (s : State) : Out :=
  afterBus (push16 s.cpu.pc s) fun _ t => fin (setPc target t)

/-- A return (R318): go on at the popped address, end as `fin` does. -/
def returnWith (fin : State → Out) (s : State) : Out := afterBus (pop16 s) fun v t => fin (setPc v t)

/-- `JP a16` (R311). -/
def execJpA16 (a16 : Word) (s : State) : Out := done (.jpA16 a16) (setPc a16 s)

/-- `JP cc,a16` (R312). -/
def execJpCcA16 (cc : Cond) (a16 : Word) (s : State) : Out :=
  if condHolds cc s.cpu.flags then doneTaken (.jpCcA16 cc a16) (setPc a16 s) else done (.jpCcA16 cc a16) s

/-- `JP HL` (R313): memory at `HL` is not read. -/
def execJpHl (s : State) : Out := done .jpHl (setPc (reg16 s .hl) s)

/-- `JR e8` (R314): relative to the address of the next instruction. -/
def execJrE8 (e8 : Byte) (s : State) : Out := done (.jrE8 e8) (setPc (s.cpu.pc + sext16 e8) s)

/-- `JR cc,e8` (R315). -/
def execJrCcE8 (cc : Cond) (e8 : Byte) (s : State) : Out :=
  if condHolds cc s.cpu.flags then doneTaken (.jrCcE8 cc e8) (setPc (s.cpu.pc + sext16 e8) s)
  else done (.jrCcE8 cc e8) s

/-- `CALL a16` (R316). -/
def execCallA16 (a16 : Word) (s : State) : Out := callTo a16 (done (.callA16 a16)) s

/-- `CALL cc,a16` (R317): a call not taken does not touch the stack. -/
def execCallCcA16 (cc : Cond) (a16 : Word) (s : State) : Out :=
  if condHolds cc s.cpu.flags then callTo a16 (doneTaken (.callCcA16 cc a16)) s else done (.callCcA16 cc a16) s

/-- `RET` (R318). -/
def execRet (s : State) : Out := returnWith (done .ret) s

/-- `RET cc` (R319). -/
def execRetCc (cc : Cond) (s : State) : Out :=
  if condHolds cc s.cpu.flags then returnWith (doneTaken (.retCc cc)) s else done (.retCc cc) s

/-- `RETI` (R320): the enable is immediate. -/
def execReti (s : State) : Out := afterBus (returnFromInterrupt s) fun _ t => done .reti t

/-- `RST n` (R321): a call to `t * 8`. -/
def execRstN (t : BitVec 3) (s : State) : Out := callTo (BitVec.ofNat 16 (t.toNat * 8)) (done (.rstN t)) s

end Sys2Proof.Machine
end

