-- ==== Sys2Proof/Machine/Load16.lean ====
section
/-! DEFINITION. The 16-bit loads and the stack instructions (41_load16.md). -/

namespace Sys2Proof.Machine

/-- `LD rr,d16` (R202). -/
def execLdRrD16 (rr : Reg16) (d16 : Word) (s : State) : Out := done (.ldRrD16 rr d16) (setReg16 rr d16 s)

/-- `LD HL,SP+e8` (R203): `SP` is unchanged. -/
def execLdHlSpE8 (e8 : Byte) (s : State) : Out :=
  let res := addSpOffset s.cpu.sp e8
  done (.ldHlSpE8 e8) (setFlags res.2 (setReg16 .hl res.1 s))

/-- `LD SP,HL` (R204). -/
def execLdSpHl (s : State) : Out := done .ldSpHl (setReg16 .sp (reg16 s .hl) s)

/-- `LD (a16),SP` (R208): low byte at `a16`, high byte at `a16 + 1`. -/
def execLdA16Sp (a16 : Word) (s : State) : Out := afterBus (writeWord s a16 s.cpu.sp) fun _ t => done (.ldA16Sp a16) t

/-- `POP AF` (R205): the low four bits of the popped low byte are dropped. -/
def execPopAf (s : State) : Out := afterBus (pop16 s) fun v t => done .popAf (setReg16 .af v t)

/-- `POP rr` (R206). -/
def execPopRr (rr : Reg16) (s : State) : Out := afterBus (pop16 s) fun v t => done (.popRr rr) (setReg16 rr v t)

/-- `PUSH rr` (R207). -/
def execPushRr (rr : Reg16) (s : State) : Out := afterBus (push16 (reg16 s rr) s) fun _ t => done (.pushRr rr) t

end Sys2Proof.Machine
end

