-- ==== Sys2Proof/Machine/Load8.lean ====
section
/-! DEFINITION. The 8-bit loads (40_load8.md).
Every instruction runs with its bytes fetched, `pc` past its last byte (R145). -/

namespace Sys2Proof.Machine

/-- `LD r,r'` (R170). -/
def execLdRR (dst src : Reg8) (s : State) : Out := done (.ldRR dst src) (setReg8 dst (reg8 s src) s)

/-- `LD r,d8` (R171). -/
def execLdRD8 (r : Reg8) (d8 : Byte) (s : State) : Out := done (.ldRD8 r d8) (setReg8 r d8 s)

/-- `LD r,(HL)` (R172): the address is formed before the destination is written. -/
def execLdRHl (r : Reg8) (s : State) : Out :=
  withRead (reg16 s .hl) s fun v => done (.ldRHl r) (setReg8 r v s)

/-- `LD (HL),r` (R173). -/
def execLdHlR (r : Reg8) (s : State) : Out := withWrite (reg16 s .hl) (reg8 s r) s (done (.ldHlR r))

/-- `LD (HL),d8` (R174). -/
def execLdHlD8 (d8 : Byte) (s : State) : Out := withWrite (reg16 s .hl) d8 s (done (.ldHlD8 d8))

/-- `LD A,(BC)` (R175). -/
def execLdABc (s : State) : Out := withRead (reg16 s .bc) s fun v => done .ldABc (setReg8 .a v s)

/-- `LD A,(DE)` (R176). -/
def execLdADe (s : State) : Out := withRead (reg16 s .de) s fun v => done .ldADe (setReg8 .a v s)

/-- `LD (BC),A` (R177). -/
def execLdBcA (s : State) : Out := withWrite (reg16 s .bc) s.cpu.a s (done .ldBcA)

/-- `LD (DE),A` (R178). -/
def execLdDeA (s : State) : Out := withWrite (reg16 s .de) s.cpu.a s (done .ldDeA)

/-- `LD A,(HL+)` (R185). -/
def execLdAHli (s : State) : Out :=
  withRead (reg16 s .hl) s fun v => done .ldAHli (setReg16 .hl (reg16 s .hl + 1) (setReg8 .a v s))

/-- `LD A,(HL-)` (R186). -/
def execLdAHld (s : State) : Out :=
  withRead (reg16 s .hl) s fun v => done .ldAHld (setReg16 .hl (reg16 s .hl - 1) (setReg8 .a v s))

/-- `LD (HL+),A` (R187). -/
def execLdHliA (s : State) : Out :=
  withWrite (reg16 s .hl) s.cpu.a s fun t => done .ldHliA (setReg16 .hl (reg16 t .hl + 1) t)

/-- `LD (HL-),A` (R188). -/
def execLdHldA (s : State) : Out :=
  withWrite (reg16 s .hl) s.cpu.a s fun t => done .ldHldA (setReg16 .hl (reg16 t .hl - 1) t)

/-- `LD A,(a16)` (R179). -/
def execLdAA16 (a16 : Word) (s : State) : Out := withRead a16 s fun v => done (.ldAA16 a16) (setReg8 .a v s)

/-- `LD (a16),A` (R180). -/
def execLdA16A (a16 : Word) (s : State) : Out := withWrite a16 s.cpu.a s (done (.ldA16A a16))

/-- `LDH A,(C)` (R181). -/
def execLdhAC (s : State) : Out := withRead (highPage s.cpu.c) s fun v => done .ldhAC (setReg8 .a v s)

/-- `LDH (C),A` (R182). -/
def execLdhCA (s : State) : Out := withWrite (highPage s.cpu.c) s.cpu.a s (done .ldhCA)

/-- `LDH A,(a8)` (R183). -/
def execLdhAA8 (a8 : Byte) (s : State) : Out := withRead (highPage a8) s fun v => done (.ldhAA8 a8) (setReg8 .a v s)

/-- `LDH (a8),A` (R184). -/
def execLdhA8A (a8 : Byte) (s : State) : Out := withWrite (highPage a8) s.cpu.a s (done (.ldhA8A a8))

end Sys2Proof.Machine
end

