-- ==== Sys2Proof/Machine/Rotate.lean ====
section
/-! DEFINITION. The rotate, shift and bit instructions (44_rotate_shift_bit.md). -/

namespace Sys2Proof.Machine

/-- An accumulator rotate: the result to `A`, `Z` cleared (R274). -/
def setAccRotate (res : Byte × Bool) (s : State) : State := setFlags (accRotateFlags res) (setReg8 .a res.1 s)

/-- `RLCA` (R270). -/
def execRlca (s : State) : Out := done .rlca (setAccRotate (rlc8 s.cpu.a) s)

/-- `RRCA` (R271). -/
def execRrca (s : State) : Out := done .rrca (setAccRotate (rrc8 s.cpu.a) s)

/-- `RLA` (R272). -/
def execRla (s : State) : Out := done .rla (setAccRotate (rl8 s.cpu.a s.cpu.flags.c) s)

/-- `RRA` (R273). -/
def execRra (s : State) : Out := done .rra (setAccRotate (rr8 s.cpu.a s.cpu.flags.c) s)

/-- A rotate or shift of the secondary table on a register (R274): the result to the register, `Z` from it. -/
def shiftReg (i : Instr) (r : Reg8) (res : Byte × Bool) (s : State) : Out :=
  done i (setFlags (shiftFlags res) (setReg8 r res.1 s))

/-- A rotate or shift of the secondary table on the byte at `(HL)`: read, store, then the flags (R276). -/
def shiftHl (i : Instr) (f : Byte → Byte × Bool) (s : State) : Out :=
  withRead (reg16 s .hl) s fun v =>
    withWrite (reg16 s .hl) (f v).1 s fun t => done i (setFlags (shiftFlags (f v)) t)

/-- The byte at `(HL)` replaced by its image, no flags (R294, R296). -/
def modifyHl (i : Instr) (f : Byte → Byte) (s : State) : Out :=
  withRead (reg16 s .hl) s fun v => withWrite (reg16 s .hl) (f v) s (done i)

/-- `RLC r` (R275). -/
def execRlcR (r : Reg8) (s : State) : Out := shiftReg (.rlcR r) r (rlc8 (reg8 s r)) s

/-- `RLC (HL)` (R276). -/
def execRlcHl (s : State) : Out := shiftHl .rlcHl rlc8 s

/-- `RRC r` (R277). -/
def execRrcR (r : Reg8) (s : State) : Out := shiftReg (.rrcR r) r (rrc8 (reg8 s r)) s

/-- `RRC (HL)` (R278). -/
def execRrcHl (s : State) : Out := shiftHl .rrcHl rrc8 s

/-- `RL r` (R279). -/
def execRlR (r : Reg8) (s : State) : Out := shiftReg (.rlR r) r (rl8 (reg8 s r) s.cpu.flags.c) s

/-- `RL (HL)` (R280). -/
def execRlHl (s : State) : Out := shiftHl .rlHl (fun v => rl8 v s.cpu.flags.c) s

/-- `RR r` (R281). -/
def execRrR (r : Reg8) (s : State) : Out := shiftReg (.rrR r) r (rr8 (reg8 s r) s.cpu.flags.c) s

/-- `RR (HL)` (R282). -/
def execRrHl (s : State) : Out := shiftHl .rrHl (fun v => rr8 v s.cpu.flags.c) s

/-- `SLA r` (R283). -/
def execSlaR (r : Reg8) (s : State) : Out := shiftReg (.slaR r) r (sla8 (reg8 s r)) s

/-- `SLA (HL)` (R284). -/
def execSlaHl (s : State) : Out := shiftHl .slaHl sla8 s

/-- `SRA r` (R285). -/
def execSraR (r : Reg8) (s : State) : Out := shiftReg (.sraR r) r (sra8 (reg8 s r)) s

/-- `SRA (HL)` (R286). -/
def execSraHl (s : State) : Out := shiftHl .sraHl sra8 s

/-- `SWAP r` (R287). -/
def execSwapR (r : Reg8) (s : State) : Out := shiftReg (.swapR r) r (swap8 (reg8 s r)) s

/-- `SWAP (HL)` (R288). -/
def execSwapHl (s : State) : Out := shiftHl .swapHl swap8 s

/-- `SRL r` (R289). -/
def execSrlR (r : Reg8) (s : State) : Out := shiftReg (.srlR r) r (srl8 (reg8 s r)) s

/-- `SRL (HL)` (R290). -/
def execSrlHl (s : State) : Out := shiftHl .srlHl srl8 s


/-- `BIT b,r` (R291): no register is written. -/
def execBitBR (b : BitVec 3) (r : Reg8) (s : State) : Out :=
  done (.bitBR b r) (setFlags (bitFlags (reg8 s r) b s.cpu.flags) s)

/-- `BIT b,(HL)` (R292): memory is not written. -/
def execBitBHl (b : BitVec 3) (s : State) : Out :=
  withRead (reg16 s .hl) s fun v => done (.bitBHl b) (setFlags (bitFlags v b s.cpu.flags) s)

/-- `RES b,r` (R293). -/
def execResBR (b : BitVec 3) (r : Reg8) (s : State) : Out := done (.resBR b r) (setReg8 r (clearBit (reg8 s r) b) s)

/-- `RES b,(HL)` (R294): the store happens even if the bit was already 0. -/
def execResBHl (b : BitVec 3) (s : State) : Out := modifyHl (.resBHl b) (fun v => clearBit v b) s

/-- `SET b,r` (R295). -/
def execSetBR (b : BitVec 3) (r : Reg8) (s : State) : Out := done (.setBR b r) (setReg8 r (setBit (reg8 s r) b) s)

/-- `SET b,(HL)` (R296). -/
def execSetBHl (b : BitVec 3) (s : State) : Out := modifyHl (.setBHl b) (fun v => setBit v b) s

end Sys2Proof.Machine
end

