-- ==== Sys2Proof/Machine/System.lean ====
section
/-! DEFINITION. The system instructions, the escape and the undefined opcodes (46_system.md). -/

namespace Sys2Proof.Machine

/-- `NOP` (R330). -/
def execNop (s : State) : Out := done .nop s

/-- `HALT` (R331): the halt check of the step follows (R362). -/
def execHalt (s : State) : Out := done .halt (setHalt true s)

/-- `STOP` (R332): the value of the padding byte is ignored. -/
def execStop (padding : Byte) (s : State) : Out := done (.stop padding) (setStop true s)

/-- `DI` (R333): immediate, and it cancels a pending enable. -/
def execDi (s : State) : Out := done .di (setImePending false (setIme false s))

/-- `EI` (R334): `IME` is set after the next instruction (R363). -/
def execEi (s : State) : Out := done .ei (setImePending true s)

/-- The register form of row `y` of the rotates and shifts, or its `(HL)` form (R143, R151). -/
def execRotRow (y : BitVec 3) (operand : Option Reg8) (s : State) : Out :=
  match y, operand with
  | 0#3, some r => execRlcR r s
  | 0#3, none => execRlcHl s
  | 1#3, some r => execRrcR r s
  | 1#3, none => execRrcHl s
  | 2#3, some r => execRlR r s
  | 2#3, none => execRlHl s
  | 3#3, some r => execRrR r s
  | 3#3, none => execRrHl s
  | 4#3, some r => execSlaR r s
  | 4#3, none => execSlaHl s
  | 5#3, some r => execSraR r s
  | 5#3, none => execSraHl s
  | 6#3, some r => execSwapR r s
  | 6#3, none => execSwapHl s
  | _, some r => execSrlR r s
  | _, none => execSrlHl s

/-- The row of the secondary table that `op2` selects (R151). -/
def execSecondary (op2 : Byte) (s : State) : Out :=
  let y := fieldY op2
  let operand := regOfIndex (fieldZ op2)
  match fieldX op2, operand with
  | 0#2, _ => execRotRow y operand s
  | 1#2, some r => execBitBR y r s
  | 1#2, none => execBitBHl y s
  | 2#2, some r => execResBR y r s
  | 2#2, none => execResBHl y s
  | _, some r => execSetBR y r s
  | _, none => execSetBHl y s

/-- `PREFIX CB` (R335): nothing of its own; the second byte is fetched and the row it selects is executed. -/
def execPrefixCb (s : State) : Out := afterBus (fetch8 s) fun op2 t => execSecondary op2 t

/-- An undefined opcode (R336): a fatal condition that reports the opcode and the address it was fetched at. -/
def undefinedOpcode (op : Byte) (s : State) : Out := processorFatal (.opcode op (s.cpu.pc - 1)) s

/-- The undefined opcode `0xD3` (R336). -/
def execUndefinedD3 (s : State) : Out := undefinedOpcode 0xD3 s

/-- The undefined opcode `0xDB` (R336). -/
def execUndefinedDB (s : State) : Out := undefinedOpcode 0xDB s

/-- The undefined opcode `0xDD` (R336). -/
def execUndefinedDD (s : State) : Out := undefinedOpcode 0xDD s

/-- The undefined opcode `0xE3` (R336). -/
def execUndefinedE3 (s : State) : Out := undefinedOpcode 0xE3 s

/-- The undefined opcode `0xE4` (R336). -/
def execUndefinedE4 (s : State) : Out := undefinedOpcode 0xE4 s

/-- The undefined opcode `0xEB` (R336). -/
def execUndefinedEB (s : State) : Out := undefinedOpcode 0xEB s

/-- The undefined opcode `0xEC` (R336). -/
def execUndefinedEC (s : State) : Out := undefinedOpcode 0xEC s

/-- The undefined opcode `0xED` (R336). -/
def execUndefinedED (s : State) : Out := undefinedOpcode 0xED s

/-- The undefined opcode `0xF4` (R336). -/
def execUndefinedF4 (s : State) : Out := undefinedOpcode 0xF4 s

/-- The undefined opcode `0xFC` (R336). -/
def execUndefinedFC (s : State) : Out := undefinedOpcode 0xFC s

/-- The undefined opcode `0xFD` (R336). -/
def execUndefinedFD (s : State) : Out := undefinedOpcode 0xFD s

end Sys2Proof.Machine
end

