-- ==== Sys2Proof/Machine/Processor.lean ====
section
/-! DEFINITION. The Processor's step: fetching and decoding an instruction, the halt check, the stopped step, the delayed
enable and the dispatch (R145, R146, R360 to R364). -/

namespace Sys2Proof.Machine

/-- Continue after an outcome that is a next state. -/
def thenOut (o : Out) (k : State → Out) : Out :=
  match o with
  | .next s => k s
  | .fault r => .fault r
  | .refused r => .refused r

/-- Fetching and decoding the instruction at `pc` (R145, R146): its first byte, then as many more as its row has, each
moving `pc` on by one. -/
def fetchInstr (s : State) : Res Instr :=
  match fetch8 s with
  | .fatal addr t => .fatal addr t
  | .ok op t =>
    match fetchRest (lengthOf op) t with
    | .fatal addr u => .fatal addr u
    | .ok rest u => .ok (decodeOp op rest.1 rest.2) u

/-- The delayed enable (R363): an enable that was pending before the instruction and still is takes effect. -/
def commitEnable (wasPending : Bool) (s : State) : State :=
  if wasPending && s.cpu.imePending then setImePending false (setIme true s) else s

/-- The execute path of a step (R360): one instruction and then the delayed enable. -/
def executePath (s : State) : Out :=
  afterBus (fetchInstr s) fun i t => thenOut (exec i t) fun u => .next (commitEnable s.cpu.imePending u)

/-- `HaltCheck()` (R362): the idle cost, and an enabled request ends the halt, whatever `IME` is. -/
def haltCheck (s : State) : State :=
  let s1 := setCost (haltIdleCycles s) s
  if pendingInterrupts s1 = 0 then s1 else setHalt false s1

/-- The pending speed switch (R361): if armed, the speed bit of `KEY1` is toggled and the armed bit cleared. -/
def speedSwitch (s : State) : State :=
  if (key1 s).getLsbD 0 then setIo 0x4D ((key1 s ^^^ 0x80) &&& 0xFE) s else s

/-- The value of `STOP_WAKE_DMG` for this stopped step, taken off the host's list (R8, R361): false, the default, where
the list is empty. -/
def stopWake (s : State) : Bool × State :=
  match s.host.stopWakes with
  | [] => (false, s)
  | w :: rest => (w, { s with host := { s.host with stopWakes := rest } })

/-- `StoppedStep()` (R361). -/
def stoppedStep (s : State) : State :=
  let s1 := setCost (stopIdleCycles s) s
  if isCgb s1 then setStop false (speedSwitch s1)
  else
    let w := stopWake s1
    if w.1 then setStop false w.2 else w.2

/-- What a step does before its dispatch check (R360): the stopped step, or an instruction unless halted, and then the
halt check if halted. -/
def stepBody (s : State) : Out :=
  if s.cpu.stop then .next (stoppedStep s)
  else
    thenOut (if s.cpu.halt then .next s else executePath s) fun t =>
      .next (if t.cpu.halt then haltCheck t else t)

/-- `Step()` (R360). -/
def processorStep (s : State) : Out :=
  thenOut (stepBody (setCost 0 s)) fun t => afterBus (dispatch t) fun _ u => .next (addTotal u)

end Sys2Proof.Machine
end

