-- ==== Sys2Proof/Machine/Timer.lean ====
section
/-! DEFINITION. The Timer (R380 to R383). -/

namespace Sys2Proof.Machine

/-- `DIV_PERIOD` (R8, R382). -/
def divPeriod (s : State) : Nat := s.setup.periods.div

/-- `TIMA_PERIOD[sel]` (R8, R383). -/
def timaPeriod (s : State) (sel : BitVec 2) : Nat :=
  match sel with
  | 0#2 => s.setup.periods.tima0
  | 1#2 => s.setup.periods.tima1
  | 2#2 => s.setup.periods.tima2
  | _ => s.setup.periods.tima3

/-- `div_acc <- n` (R42). -/
def setDivAcc (n : Nat) (s : State) : State := { s with timer := { s.timer with divAcc := n } }

/-- `div_reset <- b` (R42). -/
def setDivReset (b : Bool) (s : State) : State := { s with timer := { s.timer with divReset := b } }

/-- `tima_acc <- n` (R42). -/
def setTimaAcc (n : Nat) (s : State) : State := { s with timer := { s.timer with timaAcc := n } }

/-- `tima_sel <- sel` (R42). -/
def setTimaSel (sel : BitVec 2) (s : State) : State := { s with timer := { s.timer with timaSel := sel } }

/-- `DivAdvance(c)` (R382).
The loop of the rule, which takes one period off the accumulator and adds one to `DIV` while a whole period is left, is
the division and the remainder. -/
def divAdvance (c : Nat) (s : State) : State :=
  if s.timer.divReset then setIo 0x04 0 (setDivAcc 0 (setDivReset false s))
  else
    let acc := s.timer.divAcc + c
    setIo 0x04 (divReg s + BitVec.ofNat 8 (acc / divPeriod s)) (setDivAcc (acc % divPeriod s) s)

/-- One increment of `TIMA` (R383): at `0xFF` it is reloaded from `TMA` and the Timer requests its interrupt. -/
def timaTick (s : State) : State :=
  if timaReg s = 0xFF then request 2 (setIo 0x05 (tmaReg s) s) else setIo 0x05 (timaReg s + 1) s

/-- `n` increments of `TIMA`. -/
def timaTicks : Nat → State → State
  | 0, s => s
  | n + 1, s => timaTicks n (timaTick s)

/-- The period selection of `TAC` as the Timer sees it (R383): a change restarts the accumulator. -/
def timaSelect (s : State) : State :=
  let sel := (tacReg s).extractLsb' 0 2
  if sel = s.timer.timaSel then s else setTimaAcc 0 (setTimaSel sel s)

/-- `TimaAdvance(c)` (R383): while the enable bit is set, one increment of `TIMA` for every whole period accumulated. -/
def timaAdvance (c : Nat) (s : State) : State :=
  let s1 := timaSelect s
  if (tacReg s1).getLsbD 2 then
    let acc := s1.timer.timaAcc + c
    let period := timaPeriod s1 s1.timer.timaSel
    timaTicks (acc / period) (setTimaAcc (acc % period) s1)
  else s1

/-- `TimerAdvance(c)` (R381). -/
def timerAdvance (c : Nat) (s : State) : State := timaAdvance c (divAdvance c s)

end Sys2Proof.Machine
end

