-- ==== Sys2Proof/Machine/Scheduler.lean ====
section
/-! DEFINITION. One iteration of the Scheduler: boot hand-over, Processor, Pixel Processor, Timer, input poll, save flush
(R122, R390 to R392, R474). -/

namespace Sys2Proof.Machine

/-- The real reset vector (R473, R474). -/
def entryPoint : Word := 0x0100

/-- The boot hand-over at the head of an iteration (R474). -/
def bootHandover (s : State) : State :=
  if s.sched.bootWatch = true ∧ s.ctl.bootActive = false then
    setPc entryPoint { s with sched := { s.sched with bootWatch := false } }
  else s

/-- The host's answer to the input poll (R392), taken off its list: the same keys and no quit where the list is empty. -/
def pollAnswer (s : State) : PollAnswer × State :=
  match s.host.polls with
  | [] => (⟨s.host.keys, false⟩, s)
  | ans :: rest => (ans, { s with host := { s.host with polls := rest } })

/-- Some key is pressed now that was not before (R392). -/
def newlyPressed (old new : Keys) : Bool :=
  (new.right && !old.right) || (new.left && !old.left) || (new.up && !old.up) || (new.down && !old.down) ||
    (new.a && !old.a) || (new.b && !old.b) || (new.select && !old.select) || (new.start && !old.start)

/-- The save flush (R122): the contents of external RAM go to the host and the dirty flag is cleared, if the cartridge
has a battery and the flag is set. -/
def saveFlush (s : State) : State :=
  if s.setup.cart.battery = true ∧ s.ctl.eramDirty = true then
    { s with
      host := { s.host with saveOut := some s.mem.eram }
      ctl := { s.ctl with eramDirty := false } }
  else s

/-- `InputPoll()` (R392).
A quit signal ends the run, with the final save flush (R122, R391). -/
def inputPoll (s : State) : State :=
  let p := pollAnswer s
  let t := p.2
  let t1 := if t.setup.joypadIrqOnPress && newlyPressed t.host.keys p.1.keys then request 4 t else t
  let t2 := { t1 with host := { t1.host with keys := p.1.keys } }
  if p.1.quit then saveFlush { t2 with host := { t2.host with ended := true } } else t2

/-- `poll_acc <- n` (R47). -/
def setPollAcc (n : Nat) (s : State) : State := { s with sched := { s.sched with pollAcc := n } }

/-- The poll accounting of an iteration whose step cost `c` cycles (R390). -/
def pollAdvance (c : Nat) (s : State) : State :=
  let acc := s.sched.pollAcc + c
  if s.setup.pollEvery ≤ acc then inputPoll (setPollAcc (acc - s.setup.pollEvery) s) else setPollAcc acc s

/-- The periodic save flush (R122, R391): at the iterations the host's list says, none where it is empty. -/
def flushAdvance (s : State) : State :=
  match s.host.flushes with
  | [] => s
  | now :: rest =>
    let t := { s with host := { s.host with flushes := rest } }
    if now then saveFlush t else t

/-- The end of a run by a fatal condition: the final save flush (R391). -/
def endByFatal (r : Fault) : Fault :=
  match r with
  | .processorFault info final => .processorFault info (saveFlush final)
  | .pixelProcessorFault info final => .pixelProcessorFault info (saveFlush final)

/-- `raise Fatal(PixelProcessorFault, addr)` (R115, R350). -/
def pixelProcessorFatal (addr : Word) (s : State) : Out :=
  .fault (.pixelProcessorFault (.address addr) (latch .pixelProcessor (.address addr) s))

/-- The Timer's part of an iteration: its advance unless the step left the core stopped (R390). -/
def timerPart (c : Nat) (s : State) : State := if s.cpu.stop then s else timerAdvance c s

/-- An iteration after its Processor step (R390): the Pixel Processor with the cost shifted by the speed the step left,
the Timer with the whole cost, the poll, the flush. -/
def devicesAdvance (s : State) : Out :=
  match ppuAdvance (s.cpu.cycI >>> speed s) s with
  | .fatal addr t => pixelProcessorFatal addr t
  | .ok _ t => .next (flushAdvance (pollAdvance s.cpu.cycI (timerPart s.cpu.cycI t)))

/-- An outcome, a fatal condition in it followed by the final save flush (R391). -/
def closeRun (o : Out) : Out :=
  match o with
  | .next s => .next s
  | .fault r => .fault (endByFatal r)
  | .refused r => .refused r

/-- `Iteration()` (R390). -/
def iteration (s : State) : Out := closeRun (thenOut (processorStep (bootHandover s)) devicesAdvance)

/-! ### Starting a session -/

/-- `Reset(VARIANT, CART, BOOT)` (R470): the machine right after reset, for a configuration the rules admit.
A cartridge record that violates R9 is rejected before a session exists (R9, R470, U7 of 93_implementation_defined.md);
so is a parameter of R8 that its rules have no meaning for. -/
def powerOn (su : Setup) : Out :=
  if su.cart.wf = false then .refused .malformedCart
  else if su.parametersWf = false then .refused .malformedParameters
  else .next (State.resetWith su)

/-! ### Placing an instruction where the next step fetches it -/

/-- The state with byte `b` at the place `loc` names, no side effect: the program is loaded from outside the machine. -/
def pokeLoc (loc : Loc) (b : Byte) (s : State) : State :=
  match loc with
  | .boot i => { s with setup := { s.setup with boot := s.setup.boot.map (fun m => Memory.put m i b) } }
  | .rom off =>
    { s with setup := { s.setup with cart := { s.setup.cart with rom := Memory.put s.setup.cart.rom off b } } }
  | .vram off => setVram off b s
  | .eram off => { s with mem := { s.mem with eram := Memory.put s.mem.eram off b } }
  | .wram off => setWram off b s
  | .oam off => setOam off b s
  | .hram off => setHram off b s
  | .ie => setIe b s
  | .io _ => s
  | .nothing => s

/-- The state with bytes at consecutive addresses. -/
def pokeBytes (addr : Word) : List Byte → State → State
  | [], s => s
  | b :: rest, s => pokeBytes (addr + 1) rest (pokeLoc (locate s addr) b s)

/-- A place that holds whatever byte is put there. -/
def Loc.pokable : Loc → Bool
  | .io _ => false
  | .nothing => false
  | _ => true

/-- The address the next step fetches at: the hand-over of R474 comes first. -/
def fetchAddress (s : State) : Word := (bootHandover s).cpu.pc

/-- The machine made ready to run an instruction in its next step: not stopped, not halted, no run ended. -/
def runnable (s : State) : State := { setHalt false (setStop false s) with
  fault := none
  host := { s.host with ended := false } }

/-- The state with the bytes at the place of the next fetch; where that place cannot hold them (the I/O window, no
backing), the program counter goes to work RAM first. -/
def placeBytes (bytes : List Byte) (s : State) : State :=
  let s0 := bootHandover (runnable s)
  let ok := (locate s0 s0.cpu.pc).pokable && (locate s0 (s0.cpu.pc + 1)).pokable && (locate s0 (s0.cpu.pc + 2)).pokable
  let s1 := if ok then s0 else setPc 0xC000 s0
  pokeBytes s1.cpu.pc bytes s1

end Sys2Proof.Machine
end

