-- ==== Sys2Proof/Machine/Step.lean ====
section
/-! DEFINITION. The machine's one step: an iteration of the Scheduler (R390), and where a step finds its instruction. -/

namespace Sys2Proof.Machine

/-- One step of the machine: one iteration of the Scheduler (R390).
A faulted machine does not step (R350), and neither does one whose run the host ended (R391). -/
def step (s : State) : Host.Outcome State Fault Refusal :=
  if s.fault.isSome then .refused .afterFatal
  else if s.host.ended then .refused .afterQuit
  else iteration s

/-- The state in which the next step fetches and runs the instruction whose word is `w`, as the opcode table numbers its
`nbits` bits. -/
def State.withFetchWord (s : State) (nbits w : Nat) : State := placeBytes (tableBytes nbits w) s

end Sys2Proof.Machine
end

