-- ==== Sys2Proof/Safety.lean ====
section
/-! DEFINITION. What counts as a safe run, and the invariants the claims speak of. -/

namespace Sys2Proof.Machine

/-- The machine steps: no fatal condition is latched (R350) and the host has not ended the run (R391). -/
def State.running (s : State) : Prop := s.fault = none ∧ s.host.ended = false

/-- The next step of a running machine fetches an instruction (R360). -/
def State.executing (s : State) : Prop := s.running ∧ s.cpu.halt = false ∧ s.cpu.stop = false

/-- Every memory of the machine is in its canonical form. -/
def Mems.canonical (m : Mems) : Bool :=
  m.vram.wf && m.eram.wf && m.wram.wf && m.oam.wf && m.io.wf && m.hram.wf && m.bgpal.wf && m.objpal.wf

/-- The Pixel Processor is in a legal place of its schedule (R43, R58, R412, R413): the scanline index is below
`PPU_LINES`, it is `PPU_VISIBLE` or more exactly in V-blank, and the mode's cycles are not used up. -/
def State.ppuLegal (s : State) : Prop :=
  (ly s).toNat < s.setup.display.lines ∧
    (ppuMode s = .vBlank ↔ s.setup.display.visible ≤ (ly s).toNat) ∧ s.ppu.cyc < modeCycles s (ppuMode s)

/-- The H-blank DMA engine is legal (R45, R451): the length is a multiple of 16 of at most 2048, it is not zero while a
transfer is active, the source and the destination are multiples of 16, and the destination lies in video RAM. -/
def State.hdmaLegal (s : State) : Prop :=
  s.hdma.len % 16 = 0 ∧ s.hdma.len ≤ 2048 ∧ (s.hdma.active = true → 0 < s.hdma.len) ∧ s.hdma.src.toNat % 16 = 0 ∧
    s.hdma.dst.toNat % 16 = 0 ∧ 0x8000 ≤ s.hdma.dst.toNat ∧ s.hdma.dst.toNat < 0xA000

/-- The Timer's accumulators are below their periods (R42, R382, R383). -/
def State.timerLegal (s : State) : Prop :=
  s.timer.divAcc < divPeriod s ∧ s.timer.timaAcc < timaPeriod s s.timer.timaSel

/-- A pending enable never waits across an idle step (R334). -/
def State.enableLegal (s : State) : Prop := s.cpu.imePending = true → s.cpu.halt = false ∧ s.cpu.stop = false

/-- The bank controller's registers hold no more bits than the variant has, and with no controller external RAM stays
disabled (R40, R88 to R91). -/
def State.controllerLegal (s : State) : Prop :=
  match s.setup.cart.ctrl with
  | .none => s.ctl.bankLo = 0 ∧ s.ctl.bankHi = 0 ∧ s.ctl.bankMode = false ∧ s.ctl.eramEnabled = false
  | .a => s.ctl.bankLo.toNat < 32 ∧ s.ctl.bankHi.toNat < 4
  | .b => s.ctl.bankLo.toNat < 128 ∧ s.ctl.bankHi.toNat < 4 ∧ s.ctl.bankMode = false
  | .c => s.ctl.bankMode = false

/-- The outcome is the Processor's fatal condition at a bus address, with the latch set in the state `s` (R115, R350). -/
def busFault (addr : Word) (s : State) : Out :=
  .fault (.processorFault (.address addr) { s with fault := some ⟨.processor, .address addr⟩ })

/-- The states differ in the Processor's registers and control flags only (R20 to R29). -/
def OnlyCpu (s t : State) : Prop := t = { s with cpu := t.cpu }

/-- The address names a byte of plain storage: video, external, work, object attribute or fast RAM, or `IE` (R93 to R97,
R113, R114). -/
def plainAt (s : State) (addr : Word) : Bool :=
  match locate s addr with
  | .vram _ | .eram _ | .wram _ | .oam _ | .hram _ | .ie => true
  | .boot _ | .rom _ | .io _ | .nothing => false

end Sys2Proof.Machine
end

