-- ==== Sys2Proof/Certificates/Slice0/Obligations.lean ====
section
/-! DEFINITION. The statements for the provers, in the order of the spec's files, after the relations they are written
with. -/

namespace Sys2Proof.Claims

open Sys2Proof.Machine

/-! ### Relations -/

/-- The bytes are the whole encoding of the instruction. -/
def codedAs (bytes : List Byte) (i : Instr) : Prop := decode bytes = .instr i bytes.length

/-- Every address reads as before. -/
def readsAsBefore (s t : State) : Prop := ∀ addr, readByte t addr = readByte s addr

/-- Of the Processor only the named 8-bit registers, the flags, the step's cost and, where the two bits say so, `SP` and
`pc` may differ; nothing else of the machine differs and every address reads as before. -/
def registerFrame (s t : State) (regs : List Reg8) (sp pc : Bool) : Prop :=
  OnlyCpu s t ∧ readsAsBefore s t ∧ (∀ r, r ≠ .f → r ∉ regs → reg8 t r = reg8 s r) ∧
    (sp = false → t.cpu.sp = s.cpu.sp) ∧ (pc = false → t.cpu.pc = s.cpu.pc) ∧ t.cpu.ime = s.cpu.ime ∧
    t.cpu.imePending = s.cpu.imePending ∧ t.cpu.halt = s.cpu.halt ∧ t.cpu.stop = s.cpu.stop ∧ t.cpu.cycT = s.cpu.cycT

/-- The instruction reads the byte at `addr`: with the byte it goes to `next v`, where there is none it ends the run. -/
def readsByte (i : Instr) (s : State) (addr : Word) (next : Byte → State) : Prop :=
  (∀ v, readByte s addr = some v → exec i s = .next (next v)) ∧
    (readByte s addr = none → exec i s = busFault addr s)

/-- The instruction reads the byte at `addr`: with the byte it goes to a state related to it, where there is none it
ends the run. -/
def readsByteTo (i : Instr) (s : State) (addr : Word) (rel : Byte → State → Prop) : Prop :=
  (∀ v, readByte s addr = some v → ∃ t, exec i s = .next t ∧ rel v t) ∧
    (readByte s addr = none → exec i s = busFault addr s)

/-- The instruction stores `v` at `addr`: it goes to `after` of the state the store leaves, a store without backing ends
the run, and to plain storage it always completes and the byte reads back. -/
def storesByte (i : Instr) (s : State) (addr : Word) (v : Byte) (after : State → State) : Prop :=
  (∀ u, writeByte s addr v = .ok () u → exec i s = .next (after u)) ∧
    (∀ bad u, writeByte s addr v = .fatal bad u → exec i s = busFault bad u) ∧
    (s.mem.canonical = true → plainAt s addr = true → ∃ t, exec i s = .next t ∧ readByte t addr = some v)

/-- `CYCLES[op]` (R8, R147, R153), for a conditional transfer its cost not taken. -/
def cyclesOf (s : State) (op : Byte) : Nat := tableAt s.setup.costs.cycles op

/-- `CYCLES_TAKEN[op]` (R8, R147, R153). -/
def takenOf (s : State) (op : Byte) : Nat := tableAt s.setup.costs.cyclesTaken op

/-- `CYCLES_CB[op2]` (R8, R151, R153). -/
def cyclesCbOf (s : State) (op2 : Byte) : Nat := tableAt s.setup.costs.cyclesCb op2

/-- The state with the step's cost. -/
def costing (n : Nat) (s : State) : State := { s with cpu := { s.cpu with cycI := n } }

/-- The accumulator, the flags and the cost are all that changed. -/
def accFrame (s t : State) (cost : Nat) : Prop :=
  t = { s with cpu := { s.cpu with a := t.cpu.a, flags := t.cpu.flags, cycI := cost } } ∧ readsAsBefore s t

/-- `A` becomes `A + v + cin` modulo 256, `Z N H C` as `Add8` gives them (R215). -/
def addEffect (s : State) (v : Byte) (cin : Bool) (cost : Nat) (t : State) : Prop :=
  t.cpu.a.toNat = (s.cpu.a.toNat + v.toNat + cin.toNat) % 256 ∧
    (t.cpu.flags.z = true ↔ (s.cpu.a.toNat + v.toNat + cin.toNat) % 256 = 0) ∧ t.cpu.flags.n = false ∧
    (t.cpu.flags.h = true ↔ 16 ≤ s.cpu.a.toNat % 16 + v.toNat % 16 + cin.toNat) ∧
    (t.cpu.flags.c = true ↔ 256 ≤ s.cpu.a.toNat + v.toNat + cin.toNat) ∧ accFrame s t cost

/-- The flags `Z N H C` of `A - v - cin` as `Sub8` gives them (R215). -/
def subFlags (s : State) (v : Byte) (cin : Bool) (t : State) : Prop :=
  (t.cpu.flags.z = true ↔ ((s.cpu.a.toNat : Int) - v.toNat - cin.toNat) % 256 = 0) ∧ t.cpu.flags.n = true ∧
    (t.cpu.flags.h = true ↔ s.cpu.a.toNat % 16 < v.toNat % 16 + cin.toNat) ∧
    (t.cpu.flags.c = true ↔ s.cpu.a.toNat < v.toNat + cin.toNat)

/-- `A` becomes `A - v - cin` modulo 256, `Z N H C` as `Sub8` gives them (R215). -/
def subEffect (s : State) (v : Byte) (cin : Bool) (cost : Nat) (t : State) : Prop :=
  (t.cpu.a.toNat : Int) = ((s.cpu.a.toNat : Int) - v.toNat - cin.toNat) % 256 ∧ subFlags s v cin t ∧ accFrame s t cost

/-- The flags of `A - v`, `A` kept: `Z` exactly when they are equal, `C` exactly when `A` is below `v` (R237). -/
def compareEffect (s : State) (v : Byte) (cost : Nat) (t : State) : Prop :=
  subFlags s v false t ∧ (t.cpu.flags.z = true ↔ s.cpu.a = v) ∧ (t.cpu.flags.c = true ↔ s.cpu.a.toNat < v.toNat) ∧
    t.cpu.a = s.cpu.a ∧ accFrame s t cost

/-- Each bit of `A` becomes `op` of its two operand bits; `Z` from the result, `N = 0`, `H` as given, `C = 0` (R215). -/
def logicEffect (op : Bool → Bool → Bool) (h : Bool) (s : State) (v : Byte) (cost : Nat) (t : State) : Prop :=
  (∀ k, k < 8 → t.cpu.a.getLsbD k = op (s.cpu.a.getLsbD k) (v.getLsbD k)) ∧
    (t.cpu.flags.z = true ↔ ∀ k, k < 8 → op (s.cpu.a.getLsbD k) (v.getLsbD k) = false) ∧ t.cpu.flags.n = false ∧
    t.cpu.flags.h = h ∧ t.cpu.flags.c = false ∧ accFrame s t cost

/-- The three forms of an operation of the `alu` table (R143, R216 to R239): with a register, with the byte at `(HL)`
and with an immediate, each at the cost of its opcode; `row` is the operation's index. -/
def aluForms (row : BitVec 3) (onReg : Reg8 → Instr) (onHl : Instr) (onD8 : Byte → Instr)
    (effect : State → Byte → Nat → State → Prop) : Prop :=
  ∀ s : State,
    (∀ r : Reg8, r.nameable = true →
      codedAs [0b10#2 ++ row ++ r.index] (onReg r) ∧ ∃ t, exec (onReg r) s = .next t ∧
        effect s (reg8 s r) (cyclesOf s (0b10#2 ++ row ++ r.index)) t) ∧
    codedAs [0b10#2 ++ row ++ 0b110#3] onHl ∧
    readsByteTo onHl s (reg16 s .hl) (fun v t => effect s v (cyclesOf s (0b10#2 ++ row ++ 0b110#3)) t) ∧
    (∀ d8 : Byte,
      codedAs [0b11#2 ++ row ++ 0b110#3, d8] (onD8 d8) ∧
      ∃ t, exec (onD8 d8) s = .next t ∧ effect s d8 (cyclesOf s (0b11#2 ++ row ++ 0b110#3)) t)

/-- Bit `k` of a byte moves to where the function says, and the bit that leaves goes to `C`: the result and the carry of
a rotate or shift of R274. -/
structure ShiftRule where
  /-- Bit `k` of the result, from the operand and the carry flag. -/
  bit : Byte → Bool → Nat → Bool
  /-- The bit shifted out. -/
  out : Byte → Bool

/-- `Rlc`: bit 7 goes to bit 0 and to `C`. -/
def rlcRule : ShiftRule := ⟨fun v _ k => v.getLsbD ((k + 7) % 8), fun v => v.getLsbD 7⟩
/-- `Rrc`: bit 0 goes to bit 7 and to `C`. -/
def rrcRule : ShiftRule := ⟨fun v _ k => v.getLsbD ((k + 1) % 8), fun v => v.getLsbD 0⟩
/-- `Rl`: the carry enters at bit 0. -/
def rlRule : ShiftRule := ⟨fun v cin k => if k = 0 then cin else v.getLsbD (k - 1), fun v => v.getLsbD 7⟩
/-- `Rr`: the carry enters at bit 7. -/
def rrRule : ShiftRule := ⟨fun v cin k => if k = 7 then cin else v.getLsbD (k + 1), fun v => v.getLsbD 0⟩
/-- `Sla`: a zero enters at bit 0. -/
def slaRule : ShiftRule := ⟨fun v _ k => if k = 0 then false else v.getLsbD (k - 1), fun v => v.getLsbD 7⟩
/-- `Sra`: bit 7 stays. -/
def sraRule : ShiftRule := ⟨fun v _ k => if k = 7 then v.getLsbD 7 else v.getLsbD (k + 1), fun v => v.getLsbD 0⟩
/-- `Swap`: the halves change places. -/
def swapRule : ShiftRule := ⟨fun v _ k => v.getLsbD ((k + 4) % 8), fun _ => false⟩
/-- `Srl`: a zero enters at bit 7. -/
def srlRule : ShiftRule := ⟨fun v _ k => if k = 7 then false else v.getLsbD (k + 1), fun v => v.getLsbD 0⟩

/-- The byte is what the rule makes of the operand. -/
def isShift (rule : ShiftRule) (v : Byte) (cin : Bool) (res : Byte) : Prop :=
  ∀ k, k < 8 → res.getLsbD k = rule.bit v cin k

/-- A rotate or shift of the secondary table (R274 to R290): `row` is its index in the `rot` table; the `(HL)` form
reads and stores; `Z` from the result, `N = 0`, `H = 0`, `C` the bit shifted out; the cost is that of the second byte.
-/
def shiftForms (row : BitVec 3) (onReg : Reg8 → Instr) (onHl : Instr) (rule : ShiftRule) : Prop :=
  ∀ s : State,
    (∀ r : Reg8, r.nameable = true →
      codedAs [0xCB, 0b00#2 ++ row ++ r.index] (onReg r) ∧
      ∃ t, exec (onReg r) s = .next t ∧ isShift rule (reg8 s r) s.cpu.flags.c (reg8 t r) ∧
        t.cpu.flags = ⟨reg8 t r == 0, false, false, rule.out (reg8 s r)⟩ ∧
        t.cpu.cycI = cyclesCbOf s (0b00#2 ++ row ++ r.index) ∧ registerFrame s t [r] false false) ∧
    codedAs [0xCB, 0b00#2 ++ row ++ 0b110#3] onHl ∧
    (∀ v, readByte s (reg16 s .hl) = some v → ∃ res, isShift rule v s.cpu.flags.c res ∧
      storesByte onHl s (reg16 s .hl) res
        (fun u => { u with
          cpu := { u.cpu with
            flags := ⟨res == 0, false, false, rule.out v⟩, cycI := cyclesCbOf s (0b00#2 ++ row ++ 0b110#3) } })) ∧
    (readByte s (reg16 s .hl) = none → exec onHl s = busFault (reg16 s .hl) s)

/-- An accumulator rotate (R270 to R273): `Z = 0` whatever the result, `N = 0`, `H = 0`, `C` the bit rotated out. -/
def accRotate (op : Byte) (i : Instr) (rule : ShiftRule) : Prop :=
  codedAs [op] i ∧ ∀ s : State, ∃ t, exec i s = .next t ∧ isShift rule s.cpu.a s.cpu.flags.c t.cpu.a ∧
    t.cpu.flags = ⟨false, false, false, rule.out s.cpu.a⟩ ∧ accFrame s t (cyclesOf s op)

/-- The address an instruction's store goes to, in the state it runs in; two for a word, the one stored first in front
(R173 to R188, R200, R208, R241, R243, R276 to R296, R316, R317, R321). -/
def storeAddresses (i : Instr) (s : State) : List Word :=
  match i with
  | .ldHlR _ | .ldHlD8 _ | .ldHliA | .ldHldA | .incHl | .decHl => [reg16 s .hl]
  | .rlcHl | .rrcHl | .rlHl | .rrHl | .slaHl | .sraHl | .swapHl | .srlHl | .resBHl _ | .setBHl _ => [reg16 s .hl]
  | .ldBcA => [reg16 s .bc]
  | .ldDeA => [reg16 s .de]
  | .ldA16A a16 => [a16]
  | .ldhA8A a8 => [highPage a8]
  | .ldhCA => [highPage s.cpu.c]
  | .ldA16Sp a16 => [a16, a16 + 1]
  | .pushRr _ | .callA16 _ | .rstN _ => [s.cpu.sp - 1, s.cpu.sp - 2]
  | .callCcA16 cc _ => if condHolds cc s.cpu.flags then [s.cpu.sp - 1, s.cpu.sp - 2] else []
  | _ => []

/-- The 8-bit registers an instruction may write beside `F` (files 40 to 46). -/
def registersWritten (i : Instr) : List Reg8 :=
  match i with
  | .ldRR r _ | .ldRD8 r _ | .ldRHl r | .incR r | .decR r => [r]
  | .rlcR r | .rrcR r | .rlR r | .rrR r | .slaR r | .sraR r | .swapR r | .srlR r | .resBR _ r | .setBR _ r => [r]
  | .ldABc | .ldADe | .ldAA16 _ | .ldhAC | .ldhAA8 _ => [.a]
  | .ldAHli | .ldAHld => [.a, .h, .l]
  | .ldHliA | .ldHldA | .addHlRr _ | .ldHlSpE8 _ => [.h, .l]
  | .ldRrD16 rr _ | .incRr rr | .decRr rr | .popRr rr =>
    match rr with
    | .bc => [.b, .c]
    | .de => [.d, .e]
    | .hl => [.h, .l]
    | .af => [.a]
    | .sp => []
  | .popAf => [.a]
  | .addR _ | .addHl | .addD8 _ | .adcR _ | .adcHl | .adcD8 _ | .subR _ | .subHl | .subD8 _ | .sbcR _ | .sbcHl => [.a]
  | .sbcD8 _ | .andR _ | .andHl | .andD8 _ | .xorR _ | .xorHl | .xorD8 _ | .orR _ | .orHl | .orD8 _ => [.a]
  | .daa | .cpl | .rlca | .rrca | .rla | .rra => [.a]
  | _ => []

/-- The instruction may write `SP` (R23). -/
def writesSp (i : Instr) : Bool :=
  match i with
  | .ldRrD16 .sp _ | .incRr .sp | .decRr .sp | .ldSpHl | .addSpE8 _ => true
  | .popRr _ | .popAf | .pushRr _ | .callA16 _ | .callCcA16 _ _ | .rstN _ | .ret | .retCc _ | .reti => true
  | _ => false

/-- The instruction may write `pc` other than by being fetched (R24). -/
def writesPc (i : Instr) : Bool :=
  match i with
  | .jpA16 _ | .jpCcA16 _ _ | .jpHl | .jrE8 _ | .jrCcE8 _ _ => true
  | .callA16 _ | .callCcA16 _ _ | .rstN _ | .ret | .retCc _ | .reti => true
  | _ => false

/-- What R74 says of one flag. -/
inductive FlagEffect where
  /-- `-` -/
  | kept
  /-- `0` -/
  | cleared
  /-- `1` -/
  | set
  /-- `*` -/
  | computed
  deriving DecidableEq, Repr

/-- The table of R74: `Z`, `N`, `H`, `C` by instruction. -/
def flagEffects (i : Instr) : FlagEffect × FlagEffect × FlagEffect × FlagEffect :=
  match i with
  | .addR _ | .addHl | .addD8 _ | .adcR _ | .adcHl | .adcD8 _ => (.computed, .cleared, .computed, .computed)
  | .subR _ | .subHl | .subD8 _ | .sbcR _ | .sbcHl | .sbcD8 _ | .cpR _ | .cpHl | .cpD8 _ =>
    (.computed, .set, .computed, .computed)
  | .andR _ | .andHl | .andD8 _ => (.computed, .cleared, .set, .cleared)
  | .orR _ | .orHl | .orD8 _ | .xorR _ | .xorHl | .xorD8 _ => (.computed, .cleared, .cleared, .cleared)
  | .incR _ | .incHl => (.computed, .cleared, .computed, .kept)
  | .decR _ | .decHl => (.computed, .set, .computed, .kept)
  | .daa => (.computed, .kept, .cleared, .computed)
  | .cpl => (.kept, .set, .set, .kept)
  | .scf => (.kept, .cleared, .cleared, .set)
  | .ccf => (.kept, .cleared, .cleared, .computed)
  | .addHlRr _ => (.kept, .cleared, .computed, .computed)
  | .addSpE8 _ | .ldHlSpE8 _ => (.cleared, .cleared, .computed, .computed)
  | .rlca | .rrca | .rla | .rra => (.cleared, .cleared, .cleared, .computed)
  | .rlcR _ | .rlcHl | .rrcR _ | .rrcHl | .rlR _ | .rlHl | .rrR _ | .rrHl | .slaR _ | .slaHl | .sraR _ | .sraHl =>
    (.computed, .cleared, .cleared, .computed)
  | .srlR _ | .srlHl => (.computed, .cleared, .cleared, .computed)
  | .swapR _ | .swapHl => (.computed, .cleared, .cleared, .cleared)
  | .bitBR _ _ | .bitBHl _ => (.computed, .cleared, .set, .kept)
  | .popAf => (.computed, .computed, .computed, .computed)
  | _ => (.kept, .kept, .kept, .kept)

/-- A flag before and after agree with an entry of R74. -/
def flagAgrees (e : FlagEffect) (before after : Bool) : Prop :=
  match e with
  | .kept => after = before
  | .cleared => after = false
  | .set => after = true
  | .computed => True

/-- The instruction is a conditional transfer whose condition holds (R310). -/
def isTaken (i : Instr) (f : Flags) : Bool :=
  match i with
  | .jrCcE8 cc _ | .jpCcA16 cc _ | .callCcA16 cc _ | .retCc cc => condHolds cc f
  | _ => false

/-- The entry of the cost tables for an instruction with these bytes (R153): `CYCLES_CB` by the byte after the escape,
`CYCLES_TAKEN` for a conditional transfer that is taken, else `CYCLES`. -/
def costEntry (s : State) (bytes : List Byte) (taken : Bool) : Nat :=
  match bytes with
  | [] => 0
  | [op] => if taken then takenOf s op else cyclesOf s op
  | op :: next :: _ => if op = 0xCB#8 then cyclesCbOf s next else if taken then takenOf s op else cyclesOf s op

/-- The default cost of an instruction (R153: the second grid of R147 and R151), with the flags deciding between taken
and not taken. -/
def rowCost (i : Instr) (f : Flags) : Nat :=
  match i with
  | .nop | .halt | .stop _ | .di | .ei | .jpHl | .daa | .cpl | .scf | .ccf | .rlca | .rrca | .rla | .rra => 4
  | .ldRR _ _ | .incR _ | .decR _ | .addR _ | .adcR _ | .subR _ | .sbcR _ | .andR _ | .xorR _ | .orR _ | .cpR _ => 4
  | .ldRD8 _ _ | .ldRHl _ | .ldHlR _ | .ldBcA | .ldDeA | .ldABc | .ldADe | .ldHliA | .ldHldA | .ldAHli | .ldAHld => 8
  | .ldhAC | .ldhCA | .ldSpHl | .addHlRr _ | .incRr _ | .decRr _ => 8
  | .addHl | .addD8 _ | .adcHl | .adcD8 _ | .subHl | .subD8 _ | .sbcHl | .sbcD8 _ | .andHl | .andD8 _ => 8
  | .xorHl | .xorD8 _ | .orHl | .orD8 _ | .cpHl | .cpD8 _ => 8
  | .ldHlD8 _ | .incHl | .decHl | .ldRrD16 _ _ | .ldhA8A _ | .ldhAA8 _ | .ldHlSpE8 _ | .popRr _ | .popAf | .jrE8 _ => 12
  | .ldA16A _ | .ldAA16 _ | .addSpE8 _ | .pushRr _ | .jpA16 _ | .ret | .reti | .rstN _ => 16
  | .ldA16Sp _ => 20
  | .callA16 _ => 24
  | .jrCcE8 cc _ => if condHolds cc f then 12 else 8
  | .jpCcA16 cc _ => if condHolds cc f then 16 else 12
  | .callCcA16 cc _ => if condHolds cc f then 24 else 12
  | .retCc cc => if condHolds cc f then 20 else 8
  | .rlcR _ | .rrcR _ | .rlR _ | .rrR _ | .slaR _ | .sraR _ | .swapR _ | .srlR _ => 8
  | .bitBR _ _ | .resBR _ _ | .setBR _ _ => 8
  | .bitBHl _ => 12
  | .rlcHl | .rrcHl | .rlHl | .rrHl | .slaHl | .sraHl | .swapHl | .srlHl | .resBHl _ | .setBHl _ => 16
  | .prefixCb => 0
  | .undefinedD3 | .undefinedDB | .undefinedDD | .undefinedE3 | .undefinedE4 | .undefinedEB => 0
  | .undefinedEC | .undefinedED | .undefinedF4 | .undefinedFC | .undefinedFD => 0

/-- The byte at the place, for a place that holds plain storage (R93 to R97, R113, R114). -/
def plainPlace (loc : Loc) : Bool :=
  match loc with
  | .vram _ | .eram _ | .wram _ | .oam _ | .hram _ | .ie => true
  | .boot _ | .rom _ | .io _ | .nothing => false

/-- The eleven undefined opcodes (R336). -/
def undefinedRows : List (Byte × Instr) :=
  [(0xD3, .undefinedD3), (0xDB, .undefinedDB), (0xDD, .undefinedDD), (0xE3, .undefinedE3), (0xE4, .undefinedE4),
    (0xEB, .undefinedEB), (0xEC, .undefinedEC), (0xED, .undefinedED), (0xF4, .undefinedF4), (0xFC, .undefinedFC),
    (0xFD, .undefinedFD)]

/-- The bytes of memory from `addr` on, modulo `2^16`, are the given ones. -/
def bytesAt (s : State) (addr : Word) : List Byte → Prop
  | [] => True
  | b :: rest => readByte s addr = some b ∧ bytesAt s (addr + 1) rest

/-- The two bytes of a word, low byte first, stand at `SP` (R83, R201). -/
def wordAtSp (s : State) (v : Word) : Prop :=
  readByte s s.cpu.sp = some (loByte v) ∧ readByte s (s.cpu.sp + 1) = some (hiByte v)

/-- The state with `SP` two higher and the cost. -/
def popped (cost : Nat) (s : State) : State := { s with cpu := { s.cpu with sp := s.cpu.sp + 2, cycI := cost } }

/-- The two stores of a push, from the state `s`: the high byte at `SP - 1`, then the low byte at `SP - 2`, with `SP`
moved before each (R200). -/
def pushStores (v : Word) (s t : State) : Prop :=
  ∃ u, writeByte { s with cpu := { s.cpu with sp := s.cpu.sp - 1 } } (s.cpu.sp - 1) (hiByte v) = .ok () u ∧
    writeByte { u with cpu := { u.cpu with sp := s.cpu.sp - 2 } } (s.cpu.sp - 2) (loByte v) = .ok () t

/-- A push that the instruction makes: what follows it, where each store of it ends the run, and that onto plain storage
it always completes, with the two bytes readable afterwards. -/
def pushes (i : Instr) (s : State) (v : Word) (after : State → State) : Prop :=
  (∀ t, pushStores v s t → exec i s = .next (after t)) ∧
    (∀ bad u, writeByte { s with cpu := { s.cpu with sp := s.cpu.sp - 1 } } (s.cpu.sp - 1) (hiByte v) = .fatal bad u →
      exec i s = busFault bad u) ∧
    (∀ bad u w, writeByte { s with cpu := { s.cpu with sp := s.cpu.sp - 1 } } (s.cpu.sp - 1) (hiByte v) = .ok () u →
      writeByte { u with cpu := { u.cpu with sp := s.cpu.sp - 2 } } (s.cpu.sp - 2) (loByte v) = .fatal bad w →
      exec i s = busFault bad w) ∧
    (s.mem.canonical = true → plainAt s (s.cpu.sp - 1) = true → plainAt s (s.cpu.sp - 2) = true →
      locate s (s.cpu.sp - 1) ≠ locate s (s.cpu.sp - 2) →
      ∃ t, pushStores v s t ∧ exec i s = .next (after t) ∧ t.cpu = { s.cpu with sp := s.cpu.sp - 2 } ∧
        readByte t (s.cpu.sp - 1) = some (hiByte v) ∧ readByte t (s.cpu.sp - 2) = some (loByte v))

/-- A pop that the instruction makes: what follows it, and where each read of it ends the run. -/
def pops (i : Instr) (s : State) (after : Word → State) : Prop :=
  (∀ v, wordAtSp s v → exec i s = .next (after v)) ∧
    (readByte s s.cpu.sp = none → exec i s = busFault s.cpu.sp s) ∧
    (∀ lo, readByte s s.cpu.sp = some lo → readByte s (s.cpu.sp + 1) = none →
      exec i s = busFault (s.cpu.sp + 1) { s with cpu := { s.cpu with sp := s.cpu.sp + 1 } })

/-- A condition holds (R310). -/
def condTrue (cc : Cond) (f : Flags) : Prop :=
  match cc with
  | .nz => f.z = false
  | .z => f.z = true
  | .nc => f.c = false
  | .c => f.c = true

/-- The state with `pc` and the cost. -/
def jumped (target : Word) (cost : Nat) (s : State) : State :=
  { s with cpu := { s.cpu with pc := target, cycI := cost } }

/-- Of the I/O bytes only the named ones differ. -/
def ioKept (s t : State) (changed : List Nat) : Prop := ∀ n, n ∉ changed → io t n = io s n

/-- A byte with one bit cleared. -/
def bitCleared (i : Nat) (old new : Byte) : Prop := ∀ k, k < 8 → new.getLsbD k = (old.getLsbD k && k != i)

/-- A byte with one bit set. -/
def bitAdded (i : Nat) (old new : Byte) : Prop := ∀ k, k < 8 → new.getLsbD k = (old.getLsbD k || k == i)

/-- The lowest pending interrupt is `i`: its request and its enable are set, and no lower number has both (R353,
R365). -/
def lowestPending (s : State) (i : Nat) : Prop :=
  i < 5 ∧ (ifReg s).getLsbD i = true ∧ s.mem.ie.getLsbD i = true ∧
    ∀ k, k < i → ¬((ifReg s).getLsbD k = true ∧ s.mem.ie.getLsbD k = true)

/-- No interrupt is both requested and enabled (R355). -/
def nonePending (s : State) : Prop := ∀ k, k < 5 → ¬((ifReg s).getLsbD k = true ∧ s.mem.ie.getLsbD k = true)

/-- The state as an interrupt entry leaves it before its push (R364): the request bit cleared, both enables off. -/
def acknowledged (request : Byte) (s : State) : State :=
  { s with
    mem := { s.mem with io := Memory.put s.mem.io 0x0F request }
    cpu := { s.cpu with ime := false, imePending := false } }

/-- The state after the idle part of a step of the given cost (R29, R360). -/
def idled (cost : Nat) (s : State) : State :=
  { s with cpu := { s.cpu with cycI := cost, cycT := s.cpu.cycT + cost } }

/-- What the display registers show of the coincidence check for the scanline and the compare value (R420): `STAT[2]`
says whether they are equal, and `IF[1]` is set if they are and `STAT[6]` enables it. -/
def coincides (before after : State) (line compare : Byte) : Prop :=
  ((stat after).getLsbD 2 = true ↔ line = compare) ∧
    (∀ k, k < 8 → k ≠ 1 → (ifReg after).getLsbD k = (ifReg before).getLsbD k) ∧
    ((ifReg after).getLsbD 1 = true ↔
      (ifReg before).getLsbD 1 = true ∨ (line = compare ∧ (stat before).getLsbD 6 = true))

/-- The place in video RAM of byte `i` of a copy to `dst` (R451): in the selected bank, wrapping inside it. -/
def copyPlace (s : State) (dst : Word) (i : Nat) : Nat := vramBank s * 0x2000 + (dst.toNat - 0x8000 + i) % 0x2000

/-- The destination after `n` bytes (R451): moved on, wrapping inside `0x8000–0x9FFF`. -/
def dstAfter (dst : Word) (n : Nat) : Word := BitVec.ofNat 16 (0x8000 + (dst.toNat - 0x8000 + n) % 0x2000)

/-- From `s` to `t` the first `n` bytes of a copy from `src` to `dst` have gone to video RAM in order (R451): byte `i`
is what its source address reads in `s`, but where that address names a byte that this copy has stored before, it is
that byte; no other byte of video RAM has changed. So where the source lies outside `0x8000–0x9FFF` every byte is what
`s` reads at its source address. -/
def copied (s t : State) (src dst : Word) (n : Nat) : Prop :=
  ∃ b : Nat → Byte,
    (∀ i, i < n →
      (∀ j, j < i → locate s (src + BitVec.ofNat 16 i) = .vram (copyPlace s dst j) → b i = b j) ∧
      ((∀ j, j < i → locate s (src + BitVec.ofNat 16 i) ≠ .vram (copyPlace s dst j)) →
        readByte s (src + BitVec.ofNat 16 i) = some (b i))) ∧
    (∀ i, i < n → Memory.get t.mem.vram (copyPlace s dst i) = b i) ∧
    (∀ off, (∀ i, i < n → off ≠ copyPlace s dst i) → Memory.get t.mem.vram off = Memory.get s.mem.vram off) ∧
    ((∀ i, i < n → (src + BitVec.ofNat 16 i).toNat < 0x8000 ∨ 0xA000 ≤ (src + BitVec.ofNat 16 i).toNat) →
      ∀ i, i < n → readByte s (src + BitVec.ofNat 16 i) = some (Memory.get t.mem.vram (copyPlace s dst i)))

/-- `TIMA_PERIOD[sel]` (R8, R383). -/
def periodOf (s : State) (sel : BitVec 2) : Nat :=
  [s.setup.periods.tima0, s.setup.periods.tima1, s.setup.periods.tima2, s.setup.periods.tima3].getD sel.toNat 0

/-- A transition of the display changes the named I/O bytes, the Pixel Processor's own state and the host's side as
given, and nothing else; of `STAT` bits 7 to 3 are kept (R410, R412). -/
def onlyDisplay (s t : State) (ppu : PpuState) (host : HostSide) (changed : List Nat) : Prop :=
  t = { s with mem := { s.mem with io := t.mem.io }, ppu := ppu, host := host } ∧ ioKept s t changed ∧
    ∀ j, 3 ≤ j → j < 8 → (stat t).getLsbD j = (stat s).getLsbD j

/-! ### What a pixel shows -/

/-- The colour index of row `r`, column `k` of a tile whose 16 bytes start at `tile` in video RAM (R433): the low bit
from the even byte of the row, the high bit from the odd one, column 0 in bit 7. -/
def tileIndex (s : State) (tile r k : Nat) (idx : BitVec 2) : Prop :=
  idx.toNat = 2 * ((Memory.get s.mem.vram (tile + 2 * r + 1)).getLsbD (7 - k)).toNat +
    ((Memory.get s.mem.vram (tile + 2 * r)).getLsbD (7 - k)).toNat

/-- What point `(x, y)` of the tile map at `base` of video RAM shows (R432, R433, R437): the colour index, the
priority bit and the palette. The map entry in bank 0 gives the tile, on `CGB` the one in bank 1 its attributes: bits
2 to 0 the palette, bit 3 the tile's bank, bits 5 and 6 the flips, bit 7 the priority. `LCDC[4]` selects the tile's
address. -/
def mapShows (s : State) (base x y : Nat) (idx : BitVec 2) (prio : Bool) (palette : BitVec 3) : Prop :=
  ∃ (t attr : Byte) (tile : Nat),
    t = Memory.get s.mem.vram (base + y / 8 * 32 + x / 8) ∧
    attr = (if isCgb s then Memory.get s.mem.vram (0x2000 + (base + y / 8 * 32 + x / 8)) else 0) ∧
    (tile : Int) = (if attr.getLsbD 3 then 0x2000 else 0) +
      (if (lcdc s).getLsbD 4 then (t.toNat : Int) * 16 else 0x1000 + t.toInt * 16) ∧
    tileIndex s tile (if attr.getLsbD 6 then 7 - y % 8 else y % 8) (if attr.getLsbD 5 then 7 - x % 8 else x % 8) idx ∧
    prio = attr.getLsbD 7 ∧ palette.toNat = attr.toNat % 8

/-- The shade of an index through a monochrome palette register (R443). The shades are free values (log 8). -/
def shadeOf (palette : Byte) (idx : BitVec 2) (colour : Rgba) : Prop :=
  ∃ shade : BitVec 2, shade.toNat = palette.toNat / 4 ^ idx.toNat % 4 ∧ colour = Config.dmgShade shade

/-- The colour of an index in palette `p` of a colour palette memory (R444): 15 bits, low byte first, red lowest; five
bits become eight, or go through the correction, a free value (log 9). -/
def colourOf (s : State) (memory : Memory) (p : BitVec 3) (idx : BitVec 2) (colour : Rgba) : Prop :=
  ∃ (w : Nat) (r g b : BitVec 5),
    w = (Memory.get memory (p.toNat * 8 + idx.toNat * 2)).toNat +
      256 * (Memory.get memory (p.toNat * 8 + idx.toNat * 2 + 1)).toNat ∧
    r.toNat = w % 32 ∧ g.toNat = w / 32 % 32 ∧ b.toNat = w / 1024 % 32 ∧ colour.alpha = 0xFF ∧
    (s.setup.colorCorrection = false → colour.red.toNat = r.toNat * 8 + r.toNat / 4 ∧
      colour.green.toNat = g.toNat * 8 + g.toNat / 4 ∧ colour.blue.toNat = b.toNat * 8 + b.toNat / 4) ∧
    (s.setup.colorCorrection = true → (colour.red, colour.green, colour.blue) = Config.colorCorrect r g b)

/-- `BgColour(p, idx)` (R443, R444). -/
def backgroundColour (s : State) (p : BitVec 3) (idx : BitVec 2) (colour : Rgba) : Prop :=
  (isCgb s = true → colourOf s s.mem.bgpal p idx colour) ∧ (isCgb s = false → shadeOf (bgp s) idx colour)

/-- `ObjColour(attr, idx)` (R443, R444). -/
def objectColour (s : State) (attr : Byte) (idx : BitVec 2) (colour : Rgba) : Prop :=
  (isCgb s = true → ∃ p : BitVec 3, p.toNat = attr.toNat % 8 ∧ colourOf s s.mem.objpal p idx colour) ∧
    (isCgb s = false → shadeOf (if attr.getLsbD 4 then obp1 s else obp0 s) idx colour)

/-- The background and the window are drawn (R432, R434, R440). -/
def backgroundShown (s : State) : Prop := isCgb s = true ∨ (lcdc s).getLsbD 0 = true

/-- The window covers pixel `px` of the line (R434). -/
def windowShown (s : State) (line px : Nat) : Prop :=
  (lcdc s).getLsbD 5 = true ∧ backgroundShown s ∧ (wyReg s).toNat ≤ line ∧
    (wxReg s).toNat < s.setup.display.screenW + 7 ∧ (wxReg s).toNat ≤ px + 7

/-- What the background and the window leave at a pixel (R431, R432, R434, R440): the colour index, the priority bit
and the colour. The window's point counts from its corner, the background's from the scroll registers modulo 256; with
neither drawn the pixel is index 0 in shade 0. -/
def layerShows (s : State) (line px : Nat) (idx : BitVec 2) (prio : Bool) (colour : Rgba) : Prop :=
  (windowShown s line px → ∃ p,
    mapShows s (if (lcdc s).getLsbD 6 then 0x1C00 else 0x1800) (px + 7 - (wxReg s).toNat) (line - (wyReg s).toNat)
      idx prio p ∧ backgroundColour s p idx colour) ∧
  (¬windowShown s line px → backgroundShown s → ∃ p,
    mapShows s (if (lcdc s).getLsbD 3 then 0x1C00 else 0x1800) ((px + (scx s).toNat) % 256)
      ((line + (scy s).toNat) % 256) idx prio p ∧ backgroundColour s p idx colour) ∧
  (¬backgroundShown s → idx = 0 ∧ prio = false ∧ colour = Config.dmgShade 0)

/-- Object entry `n` covers the pixel, with these attributes and this colour index there (R435, R436): its row and
column count from `Y - 16` and `X - 8`, bits 6 and 5 flip them, 8×16 objects use a pair of tiles, and on `CGB` bit 3
gives the tile's bank. -/
def objectCovers (s : State) (line px n : Nat) (attr : Byte) (idx : BitVec 2) : Prop :=
  ∃ (h y x t : Nat),
    h = (if (lcdc s).getLsbD 2 then 16 else 8) ∧ y = (Memory.get s.mem.oam (4 * n)).toNat ∧
    x = (Memory.get s.mem.oam (4 * n + 1)).toNat ∧ t = (Memory.get s.mem.oam (4 * n + 2)).toNat ∧
    attr = Memory.get s.mem.oam (4 * n + 3) ∧ y ≤ line + 16 ∧ line + 16 < y + h ∧ x ≤ px + 8 ∧ px < x ∧
    tileIndex s ((if isCgb s && attr.getLsbD 3 then 0x2000 else 0) + (if h = 16 then t / 2 * 2 else t) * 16)
      (if attr.getLsbD 6 then h - 1 - (line + 16 - y) else line + 16 - y)
      (if attr.getLsbD 5 then 7 - (px + 8 - x) else px + 8 - x) idx

/-- An object pixel with these attributes is hidden by what the background left there (R441). -/
def behindBackground (s : State) (attr : Byte) (idx : BitVec 2) (prio : Bool) : Prop :=
  idx ≠ 0 ∧ (isCgb s = true → (lcdc s).getLsbD 0 = true ∧ (attr.getLsbD 7 = true ∨ prio = true)) ∧
    (isCgb s = false → attr.getLsbD 7 = true)

/-- Object entry `n` draws this colour at the pixel over a background of this index and priority (R435): it covers it
with an index that is not 0, and it is not hidden. -/
def objectDraws (s : State) (line px : Nat) (bgIdx : BitVec 2) (bgPrio : Bool) (n : Nat) (colour : Rgba) : Prop :=
  n < 40 ∧ ∃ attr idx, objectCovers s line px n attr idx ∧ idx ≠ 0 ∧ ¬behindBackground s attr bgIdx bgPrio ∧
    objectColour s attr idx colour

end Sys2Proof.Claims

open Sys2Proof Sys2Proof.Machine Sys2Proof.Claims

/-! ### Encoding -/

/-- 30_encoding.md: the bytes of a well-formed instruction decode to it, and so does anything that starts with them,
except that what follows a lone escape byte is its second byte (R146). -/
def Obligations.DecodingAnEncodingGivesTheInstruction : Prop :=
  ∀ i : Instr, i.wf = true →
    decode (encode i) = .instr i (encode i).length ∧
      (i ≠ .prefixCb → ∀ rest, decode (encode i ++ rest) = .instr i (encode i).length)

/-- 30_encoding.md: what the decoder reads is well formed, and its encoding is the bytes it was read from. -/
def Obligations.EncodingADecodingGivesTheBytes : Prop :=
  ∀ (bytes : List Byte) (i : Instr) (n : Nat), decode bytes = .instr i n →
    i.wf = true ∧ encode i = bytes.take n ∧ n = (encode i).length

/-- R140: one to three bytes, and the first byte alone decides how many; with three bytes at hand the decoder always
reads an instruction. -/
def Obligations.FirstByteDecidesTheLength : Prop :=
  ∀ (b lo hi : Byte) (rest : List Byte),
    1 ≤ lengthOf b ∧ lengthOf b ≤ 3 ∧ (∃ i, decode (b :: lo :: hi :: rest) = .instr i (lengthOf b)) ∧
      ∀ (more : List Byte) (i : Instr) (n : Nat), decode (b :: more) = .instr i n → i ≠ .prefixCb → n = lengthOf b

/-- Words of rows of the opcode table, written out from the patterns of 30_encoding.md, decode to their instructions.
That a word of two or three bytes without the escape has its first byte in bits 7 to 0 and later bytes above it is the
model's reading of the table's numbering, DEDUCED (log 20); R158 fixes one-byte words and those of format `CB` only.
-/
def Obligations.TableWordsDecodeToTheirRows : Prop :=
  decodeTableWord 8 0b00000000 = some .nop ∧ decodeTableWord 8 0b01111000 = some (.ldRR .a .b) ∧
    decodeTableWord 16 (0b00111110 + 0x91 * 256) = some (.ldRD8 .a 0x91) ∧
    decodeTableWord 24 (0b00110001 + 0xFFFE * 256) = some (.ldRrD16 .sp 0xFFFE) ∧
    decodeTableWord 8 0b10010000 = some (.subR .b) ∧ decodeTableWord 8 0b00101001 = some (.addHlRr .hl) ∧
    decodeTableWord 16 0b1100101100110111 = some (.swapR .a) ∧
    decodeTableWord 16 0b1100101101111110 = some (.bitBHl 7) ∧
    decodeTableWord 24 (0b11001101 + 0x3000 * 256) = some (.callA16 0x3000) ∧
    decodeTableWord 8 0b11101111 = some (.rstN 5) ∧ decodeTableWord 8 0b11011001 = some .reti ∧
    decodeTableWord 8 0b11001011 = some .prefixCb ∧ decodeTableWord 8 0b11011101 = some .undefinedDD

/-! ### The step around an instruction -/

/-- R145, R146, R360, R363, R390: where the bytes at the program counter decode to an instruction, the step is exactly
`exec` of it with `pc` past its bytes, then the delayed enable, the halt check if it halted, the dispatch check, the
cycle clock, and then the devices. Rests on the spec's own decisions D9, D10, D13, D41. That a fatal end flushes the
save file (`closeRun`) is read from R391 (log 15). -/
def Obligations.StepRunsTheDecodedInstruction : Prop :=
  ∀ (s : State) (bytes : List Byte) (i : Instr), s.executing → ¬(s.sched.bootWatch = true ∧ s.ctl.bootActive = false) →
    bytesAt s s.cpu.pc bytes → decode bytes = .instr i bytes.length → i ≠ .prefixCb →
    step s = closeRun (thenOut
      (thenOut (exec i { s with cpu := { s.cpu with pc := s.cpu.pc + BitVec.ofNat 16 bytes.length, cycI := 0 } }) fun t =>
        thenOut (.next (commitEnable s.cpu.imePending t)) fun u =>
          afterBus (dispatch (if u.cpu.halt then haltCheck u else u)) fun _ v => .next (addTotal v))
      devicesAdvance)

/-- R335: the escape has no operation of its own; the byte at `pc` selects the row that runs, `pc` past that byte, an
unreadable second byte ends the run, and a row on a register, or on plain storage at `(HL)`, completes. -/
def Obligations.EscapeRunsTheSelectedRow : Prop :=
  codedAs [0xCB] .prefixCb ∧ ∀ s : State,
    (∀ op2, readByte s s.cpu.pc = some op2 →
      codedAs [0xCB, op2] (decodeSecondary op2) ∧
      exec .prefixCb s = exec (decodeSecondary op2) { s with cpu := { s.cpu with pc := s.cpu.pc + 1 } }) ∧
    (readByte s s.cpu.pc = none → exec .prefixCb s = busFault s.cpu.pc s) ∧
    (∀ op2 : Byte, readByte s s.cpu.pc = some op2 →
      (op2.toNat % 8 ≠ 6 ∨ (s.mem.canonical = true ∧ plainAt s (reg16 s .hl) = true)) →
      ∃ t, exec .prefixCb s = .next t ∧ t.cpu.pc = s.cpu.pc + 1 ∧
        t.cpu.cycI = cyclesCbOf s op2)

/-- R145: an instruction byte that cannot be read ends the step, with `pc` advanced over the bytes fetched before it
and nothing else changed. Rests on the spec's own decision D4. -/
def Obligations.UnreadableInstructionByteEndsTheStep : Prop :=
  ∀ (s : State) (b lo : Byte),
    (readByte s s.cpu.pc = none → executePath s = busFault s.cpu.pc s) ∧
    (readByte s s.cpu.pc = some b → 2 ≤ lengthOf b → readByte s (s.cpu.pc + 1) = none →
      executePath s = busFault (s.cpu.pc + 1) { s with cpu := { s.cpu with pc := s.cpu.pc + 1 } }) ∧
    (readByte s s.cpu.pc = some b → lengthOf b = 3 → readByte s (s.cpu.pc + 1) = some lo →
      readByte s (s.cpu.pc + 2) = none →
      executePath s = busFault (s.cpu.pc + 2) { s with cpu := { s.cpu with pc := s.cpu.pc + 2 } })

/-- R336, R350: an undefined opcode sets the latch and changes nothing else, reports itself and the address it was
fetched at, no other first byte decodes to one, and a machine with its latch set never steps. Rests on the spec's own
decisions D14, D42. That a latched machine answers with a refusal is the model's form (log 14). -/
def Obligations.UndefinedOpcodeEndsTheRun : Prop :=
  (∀ row ∈ undefinedRows, codedAs [row.1] row.2 ∧ ∀ s : State,
    exec row.2 s = .fault (.processorFault (.opcode row.1 (s.cpu.pc - 1))
      { s with fault := some ⟨.processor, .opcode row.1 (s.cpu.pc - 1)⟩ })) ∧
    (∀ (b : Byte) (rest : List Byte) (n : Nat), ∀ row ∈ undefinedRows, decode (b :: rest) = .instr row.2 n → b = row.1) ∧
    (∀ s : State, s.fault.isSome = true → step s = .refused .afterFatal)

/-! ### Loads -/

/-- R170, R204 and the immediate loads: one register or pair takes the value, no flag and nothing else changes. -/
def Obligations.RegisterLoadsCopyTheValue : Prop :=
  ∀ s : State,
    (∀ dst src : Reg8, dst.nameable = true → src.nameable = true →
      codedAs [0b01#2 ++ dst.index ++ src.index] (.ldRR dst src) ∧
      ∃ t, exec (.ldRR dst src) s = .next t ∧ reg8 t dst = reg8 s src ∧ t.cpu.flags = s.cpu.flags ∧
        t.cpu.cycI = cyclesOf s (0b01#2 ++ dst.index ++ src.index) ∧ registerFrame s t [dst] false false) ∧
    (∀ (dst : Reg8) (d8 : Byte), dst.nameable = true →
      codedAs [0b00#2 ++ dst.index ++ 0b110#3, d8] (.ldRD8 dst d8) ∧
      ∃ t, exec (.ldRD8 dst d8) s = .next t ∧ reg8 t dst = d8 ∧ t.cpu.flags = s.cpu.flags ∧
        t.cpu.cycI = cyclesOf s (0b00#2 ++ dst.index ++ 0b110#3) ∧ registerFrame s t [dst] false false) ∧
    (∀ (rr : Reg16) (d16 : Word), rr.inRp = true →
      codedAs [0b00#2 ++ rr.index ++ 0b0001#4, loByte d16, hiByte d16] (.ldRrD16 rr d16) ∧
      ∃ t, exec (.ldRrD16 rr d16) s = .next t ∧ reg16 t rr = d16 ∧ t.cpu.flags = s.cpu.flags ∧
        t.cpu.cycI = cyclesOf s (0b00#2 ++ rr.index ++ 0b0001#4) ∧
        registerFrame s t (registersWritten (.ldRrD16 rr d16)) (rr == .sp) false) ∧
    codedAs [0b11111001] .ldSpHl ∧
    exec .ldSpHl s = .next { s with cpu := { s.cpu with sp := s.cpu.h ++ s.cpu.l, cycI := cyclesOf s 0b11111001 } }

/-- R172, R175, R176, R181, R185, R186 and the forms with an address byte or word: the byte at the address goes to the
register, `HL` moves after an `(HL+)` or `(HL-)`, no flag and no memory changes, and a byte without backing ends the
run. -/
def Obligations.LoadsFromMemoryTakeTheByte : Prop :=
  ∀ s : State,
    (∀ r : Reg8, r.nameable = true →
      codedAs [0b01#2 ++ r.index ++ 0b110#3] (.ldRHl r) ∧
      readsByteTo (.ldRHl r) s (s.cpu.h ++ s.cpu.l) (fun v t => reg8 t r = v ∧ t.cpu.flags = s.cpu.flags ∧
        t.cpu.cycI = cyclesOf s (0b01#2 ++ r.index ++ 0b110#3) ∧ registerFrame s t [r] false false)) ∧
    codedAs [0b00001010] .ldABc ∧
    readsByte .ldABc s (s.cpu.b ++ s.cpu.c) (fun v => { s with
      cpu := { s.cpu with a := v, cycI := cyclesOf s 0b00001010 } }) ∧
    codedAs [0b00011010] .ldADe ∧
    readsByte .ldADe s (s.cpu.d ++ s.cpu.e) (fun v => { s with
      cpu := { s.cpu with a := v, cycI := cyclesOf s 0b00011010 } }) ∧
    codedAs [0b11110010] .ldhAC ∧
    readsByte .ldhAC s (0xFF#8 ++ s.cpu.c) (fun v => { s with
      cpu := { s.cpu with a := v, cycI := cyclesOf s 0b11110010 } }) ∧
    (∀ a8 : Byte, codedAs [0b11110000, a8] (.ldhAA8 a8) ∧
      readsByte (.ldhAA8 a8) s (0xFF#8 ++ a8) (fun v => { s with
        cpu := { s.cpu with a := v, cycI := cyclesOf s 0b11110000 } })) ∧
    (∀ a16 : Word, codedAs [0b11111010, loByte a16, hiByte a16] (.ldAA16 a16) ∧
      readsByte (.ldAA16 a16) s a16 (fun v => { s with
        cpu := { s.cpu with a := v, cycI := cyclesOf s 0b11111010 } })) ∧
    codedAs [0b00101010] .ldAHli ∧
    readsByte .ldAHli s (s.cpu.h ++ s.cpu.l) (fun v => { s with
      cpu := { s.cpu with
        a := v, h := hiByte (s.cpu.h ++ s.cpu.l + 1), l := loByte (s.cpu.h ++ s.cpu.l + 1)
        cycI := cyclesOf s 0b00101010 } }) ∧
    codedAs [0b00111010] .ldAHld ∧
    readsByte .ldAHld s (s.cpu.h ++ s.cpu.l) (fun v => { s with
      cpu := { s.cpu with
        a := v, h := hiByte (s.cpu.h ++ s.cpu.l - 1), l := loByte (s.cpu.h ++ s.cpu.l - 1)
        cycI := cyclesOf s 0b00111010 } })

/-- R173, R177, R178, R182, R187, R188 and the forms with an immediate: the byte is stored at the address through the
Bus, `HL` moves after an `(HL+)` or `(HL-)`, no flag changes, and a store without backing ends the run. -/
def Obligations.StoresWriteTheByteThroughTheBus : Prop :=
  ∀ s : State,
    (∀ r : Reg8, r.nameable = true →
      codedAs [0b01#2 ++ 0b110#3 ++ r.index] (.ldHlR r) ∧
      storesByte (.ldHlR r) s (s.cpu.h ++ s.cpu.l) (reg8 s r)
        (costing (cyclesOf s (0b01#2 ++ 0b110#3 ++ r.index)))) ∧
    (∀ d8 : Byte, codedAs [0b00110110, d8] (.ldHlD8 d8) ∧
      storesByte (.ldHlD8 d8) s (s.cpu.h ++ s.cpu.l) d8 (costing (cyclesOf s 0b00110110))) ∧
    codedAs [0b00000010] .ldBcA ∧
    storesByte .ldBcA s (s.cpu.b ++ s.cpu.c) s.cpu.a (costing (cyclesOf s 0b00000010)) ∧
    codedAs [0b00010010] .ldDeA ∧
    storesByte .ldDeA s (s.cpu.d ++ s.cpu.e) s.cpu.a (costing (cyclesOf s 0b00010010)) ∧
    codedAs [0b11100010] .ldhCA ∧
    storesByte .ldhCA s (0xFF#8 ++ s.cpu.c) s.cpu.a (costing (cyclesOf s 0b11100010)) ∧
    (∀ a8 : Byte, codedAs [0b11100000, a8] (.ldhA8A a8) ∧
      storesByte (.ldhA8A a8) s (0xFF#8 ++ a8) s.cpu.a (costing (cyclesOf s 0b11100000))) ∧
    (∀ a16 : Word, codedAs [0b11101010, loByte a16, hiByte a16] (.ldA16A a16) ∧
      storesByte (.ldA16A a16) s a16 s.cpu.a (costing (cyclesOf s 0b11101010))) ∧
    codedAs [0b00100010] .ldHliA ∧
    storesByte .ldHliA s (s.cpu.h ++ s.cpu.l) s.cpu.a (fun u => { u with
      cpu := { u.cpu with
        h := hiByte (s.cpu.h ++ s.cpu.l + 1), l := loByte (s.cpu.h ++ s.cpu.l + 1)
        cycI := cyclesOf s 0b00100010 } }) ∧
    codedAs [0b00110010] .ldHldA ∧
    storesByte .ldHldA s (s.cpu.h ++ s.cpu.l) s.cpu.a (fun u => { u with
      cpu := { u.cpu with
        h := hiByte (s.cpu.h ++ s.cpu.l - 1), l := loByte (s.cpu.h ++ s.cpu.l - 1)
        cycI := cyclesOf s 0b00110010 } })

/-- R200, R207: `PUSH` stores the high byte at `SP - 1`, then the low byte at `SP - 2`, through the Bus. Rests on the
spec's own decisions D4 (the wrap of `SP`) and D5 (the high byte first). -/
def Obligations.PushStoresTheHighByteFirst : Prop :=
  ∀ (s : State) (rr : Reg16), rr.inRp2 = true →
    codedAs [0b11#2 ++ rr.index ++ 0b0101#4] (.pushRr rr) ∧
    pushes (.pushRr rr) s (reg16 s rr) (costing (cyclesOf s (0b11#2 ++ rr.index ++ 0b0101#4)))

/-- R201, R205, R206: `POP` takes the low byte at `SP` and the high byte above it; `POP AF` drops the low four bits of
the byte for `F`. Rests on the spec's own decisions D4, D5, D46. -/
def Obligations.PopTakesTheLowByteFirst : Prop :=
  ∀ s : State,
    (∀ rr : Reg16, rr.inRp = true → rr.inRp2 = true →
      codedAs [0b11#2 ++ rr.index ++ 0b0001#4] (.popRr rr) ∧
      (∀ v, wordAtSp s v → ∃ t, exec (.popRr rr) s = .next t ∧ reg16 t rr = v ∧ t.cpu.sp = s.cpu.sp + 2 ∧
        t.cpu.flags = s.cpu.flags ∧ t.cpu.cycI = cyclesOf s (0b11#2 ++ rr.index ++ 0b0001#4) ∧
        registerFrame s t (registersWritten (.popRr rr)) true false) ∧
      pops (.popRr rr) s (fun v => setReg16 rr v (popped (cyclesOf s (0b11#2 ++ rr.index ++ 0b0001#4)) s))) ∧
    codedAs [0b11110001] .popAf ∧
    (∀ v, wordAtSp s v → ∃ t, exec .popAf s = .next t ∧ reg8 t .a = hiByte v ∧ reg8 t .f = loByte v &&& 0xF0 ∧
      t.cpu.flags = ⟨v.getLsbD 7, v.getLsbD 6, v.getLsbD 5, v.getLsbD 4⟩ ∧ t.cpu.sp = s.cpu.sp + 2 ∧
      t.cpu.cycI = cyclesOf s 0b11110001 ∧ registerFrame s t [.a] true false) ∧
    pops .popAf s (fun v => setReg16 .af v (popped (cyclesOf s 0b11110001) s))

/-- R208: `LD (a16),SP` stores the low byte of `SP` at `a16` and then the high byte at `a16 + 1`; where the second
store ends the run the first has been made. Rests on the spec's own decisions D4, D5. -/
def Obligations.StackPointerStoreIsLowByteFirst : Prop :=
  ∀ (s : State) (a16 : Word),
    codedAs [0b00001000, loByte a16, hiByte a16] (.ldA16Sp a16) ∧
    (∀ u t, writeByte s a16 (loByte s.cpu.sp) = .ok () u → writeByte u (a16 + 1) (hiByte s.cpu.sp) = .ok () t →
      exec (.ldA16Sp a16) s = .next (costing (cyclesOf s 0b00001000) t)) ∧
    (∀ bad u, writeByte s a16 (loByte s.cpu.sp) = .fatal bad u → exec (.ldA16Sp a16) s = busFault bad u) ∧
    (∀ bad u t, writeByte s a16 (loByte s.cpu.sp) = .ok () u → writeByte u (a16 + 1) (hiByte s.cpu.sp) = .fatal bad t →
      exec (.ldA16Sp a16) s = busFault bad t) ∧
    (s.mem.canonical = true → plainAt s a16 = true → plainAt s (a16 + 1) = true → locate s a16 ≠ locate s (a16 + 1) →
      ∃ t, exec (.ldA16Sp a16) s = .next t ∧ readByte t a16 = some (loByte s.cpu.sp) ∧
        readByte t (a16 + 1) = some (hiByte s.cpu.sp))

/-- R203, R261: `SP` plus the signed offset, to `HL` or to `SP`; `H` and `C` are the carries of the unsigned addition of
the low byte of `SP` and the raw byte, `Z` and `N` are cleared. -/
def Obligations.StackPointerOffsetCarriesAreUnsigned : Prop :=
  ∀ (s : State) (e : Byte),
    codedAs [0b11111000, e] (.ldHlSpE8 e) ∧ codedAs [0b11101000, e] (.addSpE8 e) ∧
    ∃ (sum : Word) (f : Flags),
      (sum.toNat : Int) = ((s.cpu.sp.toNat : Int) + e.toInt) % 65536 ∧ f.z = false ∧ f.n = false ∧
      (f.h = true ↔ 16 ≤ s.cpu.sp.toNat % 16 + e.toNat % 16) ∧
      (f.c = true ↔ 256 ≤ s.cpu.sp.toNat % 256 + e.toNat) ∧
      exec (.ldHlSpE8 e) s = .next { s with
        cpu := { s.cpu with h := hiByte sum, l := loByte sum, flags := f, cycI := cyclesOf s 0b11111000 } } ∧
      exec (.addSpE8 e) s = .next { s with
        cpu := { s.cpu with sp := sum, flags := f, cycI := cyclesOf s 0b11101000 } }

/-! ### 8-bit arithmetic -/

/-- R215 to R221: addition to the accumulator, with and without the carry, over the integers. -/
def Obligations.AdditionIsExactWithItsFlags : Prop :=
  aluForms 0 .addR .addHl .addD8 (fun s v cost t => addEffect s v false cost t) ∧
    aluForms 1 .adcR .adcHl .adcD8 (fun s v cost t => addEffect s v s.cpu.flags.c cost t)

/-- R215, R222 to R227, R237 to R239: subtraction from the accumulator, with and without the borrow, and comparison. -/
def Obligations.SubtractionIsExactWithItsFlags : Prop :=
  aluForms 2 .subR .subHl .subD8 (fun s v cost t => subEffect s v false cost t) ∧
    aluForms 3 .sbcR .sbcHl .sbcD8 (fun s v cost t => subEffect s v s.cpu.flags.c cost t) ∧
    aluForms 7 .cpR .cpHl .cpD8 compareEffect

/-- R215, R228 to R236: and, exclusive or, or, bit by bit. -/
def Obligations.LogicIsBitwiseWithItsFlags : Prop :=
  aluForms 4 .andR .andHl .andD8 (logicEffect (· && ·) true) ∧
    aluForms 5 .xorR .xorHl .xorD8 (logicEffect Bool.xor false) ∧
    aluForms 6 .orR .orHl .orD8 (logicEffect (· || ·) false)

/-- R240 to R243: increment and decrement modulo 256 with `C` kept, of a register and of the byte at `(HL)`: there read,
store, then the flags; a read without backing leaves everything, a store without backing leaves the flags. -/
def Obligations.IncrementAndDecrementKeepCarry : Prop :=
  ∀ s : State,
    (∀ r : Reg8, r.nameable = true →
      codedAs [0b00#2 ++ r.index ++ 0b100#3] (.incR r) ∧ codedAs [0b00#2 ++ r.index ++ 0b101#3] (.decR r) ∧
      (∃ t, exec (.incR r) s = .next t ∧ (reg8 t r).toNat = ((reg8 s r).toNat + 1) % 256 ∧
        t.cpu.flags = ⟨(reg8 s r).toNat == 255, false, (reg8 s r).toNat % 16 == 15, s.cpu.flags.c⟩ ∧
        t.cpu.cycI = cyclesOf s (0b00#2 ++ r.index ++ 0b100#3) ∧ registerFrame s t [r] false false) ∧
      (∃ t, exec (.decR r) s = .next t ∧ (reg8 t r).toNat = ((reg8 s r).toNat + 255) % 256 ∧
        t.cpu.flags = ⟨(reg8 s r).toNat == 1, true, (reg8 s r).toNat % 16 == 0, s.cpu.flags.c⟩ ∧
        t.cpu.cycI = cyclesOf s (0b00#2 ++ r.index ++ 0b101#3) ∧ registerFrame s t [r] false false)) ∧
    codedAs [0b00110100] .incHl ∧ codedAs [0b00110101] .decHl ∧
    (∀ v, readByte s (s.cpu.h ++ s.cpu.l) = some v →
      storesByte .incHl s (s.cpu.h ++ s.cpu.l) (BitVec.ofNat 8 (v.toNat + 1)) (fun u => { u with
        cpu := { u.cpu with
          flags := ⟨v.toNat == 255, false, v.toNat % 16 == 15, s.cpu.flags.c⟩, cycI := cyclesOf s 0b00110100 } }) ∧
      storesByte .decHl s (s.cpu.h ++ s.cpu.l) (BitVec.ofNat 8 (v.toNat + 255)) (fun u => { u with
        cpu := { u.cpu with
          flags := ⟨v.toNat == 1, true, v.toNat % 16 == 0, s.cpu.flags.c⟩, cycI := cyclesOf s 0b00110101 } })) ∧
    (readByte s (s.cpu.h ++ s.cpu.l) = none →
      exec .incHl s = busFault (s.cpu.h ++ s.cpu.l) s ∧ exec .decHl s = busFault (s.cpu.h ++ s.cpu.l) s)

/-- R244 to R247: `DAA` for all 256 values of `A` and all flags, in the summed formulation the rule gives; complement,
set carry and complement carry. -/
def Obligations.AccumulatorAdjustmentsFollowTheirRules : Prop :=
  codedAs [0b00100111] .daa ∧ codedAs [0b00101111] .cpl ∧ codedAs [0b00110111] .scf ∧ codedAs [0b00111111] .ccf ∧
  ∀ s : State,
    (∃ t, exec .daa s = .next t ∧ accFrame s t (cyclesOf s 0b00100111) ∧
      t.cpu.flags.n = s.cpu.flags.n ∧ t.cpu.flags.h = false ∧
      (t.cpu.flags.z = true ↔ t.cpu.a = 0) ∧
      (s.cpu.flags.n = false →
        t.cpu.a.toNat = (s.cpu.a.toNat + (if s.cpu.flags.c = true ∨ 0x99 < s.cpu.a.toNat then 0x60 else 0) +
          (if s.cpu.flags.h = true ∨ 9 < s.cpu.a.toNat % 16 then 6 else 0)) % 256 ∧
        (t.cpu.flags.c = true ↔ s.cpu.flags.c = true ∨ 0x99 < s.cpu.a.toNat)) ∧
      (s.cpu.flags.n = true →
        (t.cpu.a.toNat : Int) = ((s.cpu.a.toNat : Int) - (if s.cpu.flags.c then 0x60 else 0) -
          (if s.cpu.flags.h then 6 else 0)) % 256 ∧
        t.cpu.flags.c = s.cpu.flags.c)) ∧
    (∃ t, exec .cpl s = .next t ∧ (∀ k, k < 8 → t.cpu.a.getLsbD k = !s.cpu.a.getLsbD k) ∧
      t.cpu.flags = ⟨s.cpu.flags.z, true, true, s.cpu.flags.c⟩ ∧ accFrame s t (cyclesOf s 0b00101111)) ∧
    exec .scf s = .next { s with
      cpu := { s.cpu with flags := ⟨s.cpu.flags.z, false, false, true⟩, cycI := cyclesOf s 0b00110111 } } ∧
    exec .ccf s = .next { s with
      cpu := { s.cpu with flags := ⟨s.cpu.flags.z, false, false, !s.cpu.flags.c⟩, cycI := cyclesOf s 0b00111111 } }

/-- R218, R224, R244: adding or subtracting two-digit decimal numbers and adjusting gives the two-digit decimal result,
with the carry the hundreds or the borrow. -/
def Obligations.DecimalAdjustGivesDecimalArithmetic : Prop :=
  ∀ (s t u : State) (x y : Nat), x < 100 → y < 100 → s.cpu.a.toNat = x / 10 * 16 + x % 10 →
    (exec (.addD8 (BitVec.ofNat 8 (y / 10 * 16 + y % 10))) s = .next t → exec .daa t = .next u →
      u.cpu.a.toNat = (x + y) % 100 / 10 * 16 + (x + y) % 10 ∧ (u.cpu.flags.c = true ↔ 100 ≤ x + y)) ∧
    (exec (.subD8 (BitVec.ofNat 8 (y / 10 * 16 + y % 10))) s = .next t → exec .daa t = .next u →
      u.cpu.a.toNat = (x + 100 - y) % 100 / 10 * 16 + (x + 100 - y) % 10 ∧ (u.cpu.flags.c = true ↔ x < y))

/-! ### 16-bit arithmetic -/

/-- R260, R262, R263: `ADD HL,rr` over the integers with `Z` kept and the carries out of bits 11 and 15; increment and
decrement of a pair modulo `2^16` with no flag. -/
def Obligations.WordArithmeticIsExact : Prop :=
  ∀ (s : State) (rr : Reg16), rr.inRp = true →
    codedAs [0b00#2 ++ rr.index ++ 0b1001#4] (.addHlRr rr) ∧ codedAs [0b00#2 ++ rr.index ++ 0b0011#4] (.incRr rr) ∧
    codedAs [0b00#2 ++ rr.index ++ 0b1011#4] (.decRr rr) ∧
    (∃ t, exec (.addHlRr rr) s = .next t ∧
      (reg16 t .hl).toNat = ((reg16 s .hl).toNat + (reg16 s rr).toNat) % 65536 ∧ t.cpu.flags.z = s.cpu.flags.z ∧
      t.cpu.flags.n = false ∧
      (t.cpu.flags.h = true ↔ 4096 ≤ (reg16 s .hl).toNat % 4096 + (reg16 s rr).toNat % 4096) ∧
      (t.cpu.flags.c = true ↔ 65536 ≤ (reg16 s .hl).toNat + (reg16 s rr).toNat) ∧
      t.cpu.cycI = cyclesOf s (0b00#2 ++ rr.index ++ 0b1001#4) ∧ registerFrame s t [.h, .l] false false) ∧
    (∃ t, exec (.incRr rr) s = .next t ∧ (reg16 t rr).toNat = ((reg16 s rr).toNat + 1) % 65536 ∧
      t.cpu.flags = s.cpu.flags ∧ t.cpu.cycI = cyclesOf s (0b00#2 ++ rr.index ++ 0b0011#4) ∧
      registerFrame s t (registersWritten (.incRr rr)) (rr == .sp) false) ∧
    (∃ t, exec (.decRr rr) s = .next t ∧ (reg16 t rr).toNat = ((reg16 s rr).toNat + 65535) % 65536 ∧
      t.cpu.flags = s.cpu.flags ∧ t.cpu.cycI = cyclesOf s (0b00#2 ++ rr.index ++ 0b1011#4) ∧
      registerFrame s t (registersWritten (.decRr rr)) (rr == .sp) false)

/-! ### Rotates, shifts and bits -/

/-- R270 to R290: the accumulator rotates, and the rotates, shifts and the swap of the secondary table on a register and
on the byte at `(HL)`. -/
def Obligations.RotatesAndShiftsMoveEveryBit : Prop :=
  accRotate 0b00000111 .rlca rlcRule ∧ accRotate 0b00001111 .rrca rrcRule ∧ accRotate 0b00010111 .rla rlRule ∧
    accRotate 0b00011111 .rra rrRule ∧ shiftForms 0 .rlcR .rlcHl rlcRule ∧ shiftForms 1 .rrcR .rrcHl rrcRule ∧
    shiftForms 2 .rlR .rlHl rlRule ∧ shiftForms 3 .rrR .rrHl rrRule ∧ shiftForms 4 .slaR .slaHl slaRule ∧
    shiftForms 5 .sraR .sraHl sraRule ∧ shiftForms 6 .swapR .swapHl swapRule ∧ shiftForms 7 .srlR .srlHl srlRule

/-- R291 to R296: `BIT` tests one bit (`Z` its complement, `N = 0`, `H = 1`, `C` kept) and writes nothing; `RES` and
`SET` write one bit, keep the other seven and change no flag; on a register and on the byte at `(HL)`. -/
def Obligations.BitInstructionsTouchOneBit : Prop :=
  ∀ (s : State) (b : BitVec 3),
    (∀ r : Reg8, r.nameable = true →
      codedAs [0xCB, 0b01#2 ++ b ++ r.index] (.bitBR b r) ∧ codedAs [0xCB, 0b10#2 ++ b ++ r.index] (.resBR b r) ∧
      codedAs [0xCB, 0b11#2 ++ b ++ r.index] (.setBR b r) ∧
      exec (.bitBR b r) s = .next { s with
        cpu := { s.cpu with
          flags := ⟨!(reg8 s r).getLsbD b.toNat, false, true, s.cpu.flags.c⟩
          cycI := cyclesCbOf s (0b01#2 ++ b ++ r.index) } } ∧
      (∃ t, exec (.resBR b r) s = .next t ∧ bitCleared b.toNat (reg8 s r) (reg8 t r) ∧ t.cpu.flags = s.cpu.flags ∧
        t.cpu.cycI = cyclesCbOf s (0b10#2 ++ b ++ r.index) ∧ registerFrame s t [r] false false) ∧
      (∃ t, exec (.setBR b r) s = .next t ∧ bitAdded b.toNat (reg8 s r) (reg8 t r) ∧ t.cpu.flags = s.cpu.flags ∧
        t.cpu.cycI = cyclesCbOf s (0b11#2 ++ b ++ r.index) ∧ registerFrame s t [r] false false)) ∧
    codedAs [0xCB, 0b01#2 ++ b ++ 0b110#3] (.bitBHl b) ∧ codedAs [0xCB, 0b10#2 ++ b ++ 0b110#3] (.resBHl b) ∧
    codedAs [0xCB, 0b11#2 ++ b ++ 0b110#3] (.setBHl b) ∧
    readsByte (.bitBHl b) s (s.cpu.h ++ s.cpu.l) (fun v => { s with
      cpu := { s.cpu with
        flags := ⟨!v.getLsbD b.toNat, false, true, s.cpu.flags.c⟩
        cycI := cyclesCbOf s (0b01#2 ++ b ++ 0b110#3) } }) ∧
    (∀ v, readByte s (s.cpu.h ++ s.cpu.l) = some v →
      (∃ res : Byte, bitCleared b.toNat v res ∧
        storesByte (.resBHl b) s (s.cpu.h ++ s.cpu.l) res (costing (cyclesCbOf s (0b10#2 ++ b ++ 0b110#3)))) ∧
      (∃ res : Byte, bitAdded b.toNat v res ∧
        storesByte (.setBHl b) s (s.cpu.h ++ s.cpu.l) res (costing (cyclesCbOf s (0b11#2 ++ b ++ 0b110#3))))) ∧
    (readByte s (s.cpu.h ++ s.cpu.l) = none →
      exec (.resBHl b) s = busFault (s.cpu.h ++ s.cpu.l) s ∧ exec (.setBHl b) s = busFault (s.cpu.h ++ s.cpu.l) s)

/-! ### Control transfer -/

/-- R310 to R315: jumps go to the address, to `HL`, or to the signed offset from the next instruction modulo `2^16`; a
conditional one goes on at the next instruction where its condition is false; costs as taken or not. Rests on the spec's
own decision D4 (the wrap of the relative target, R314). -/
def Obligations.JumpsSetTheProgramCounter : Prop :=
  ∀ s : State,
    (∀ a16 : Word, codedAs [0b11000011, loByte a16, hiByte a16] (.jpA16 a16) ∧
      exec (.jpA16 a16) s = .next (jumped a16 (cyclesOf s 0b11000011) s)) ∧
    (∀ (cc : Cond) (a16 : Word),
      codedAs [0b110#3 ++ cc.index ++ 0b010#3, loByte a16, hiByte a16] (.jpCcA16 cc a16) ∧
      (condTrue cc s.cpu.flags →
        exec (.jpCcA16 cc a16) s = .next (jumped a16 (takenOf s (0b110#3 ++ cc.index ++ 0b010#3)) s)) ∧
      (¬condTrue cc s.cpu.flags →
        exec (.jpCcA16 cc a16) s = .next (costing (cyclesOf s (0b110#3 ++ cc.index ++ 0b010#3)) s))) ∧
    codedAs [0b11101001] .jpHl ∧
    exec .jpHl s = .next (jumped (s.cpu.h ++ s.cpu.l) (cyclesOf s 0b11101001) s) ∧
    (∀ e : Byte, ∃ target : Word, (target.toNat : Int) = ((s.cpu.pc.toNat : Int) + e.toInt) % 65536 ∧
      codedAs [0b00011000, e] (.jrE8 e) ∧
      exec (.jrE8 e) s = .next (jumped target (cyclesOf s 0b00011000) s) ∧
      ∀ cc : Cond, codedAs [0b001#3 ++ cc.index ++ 0b000#3, e] (.jrCcE8 cc e) ∧
        (condTrue cc s.cpu.flags →
          exec (.jrCcE8 cc e) s = .next (jumped target (takenOf s (0b001#3 ++ cc.index ++ 0b000#3)) s)) ∧
        (¬condTrue cc s.cpu.flags →
          exec (.jrCcE8 cc e) s = .next (costing (cyclesOf s (0b001#3 ++ cc.index ++ 0b000#3)) s)))

/-- R316, R317, R321: a call pushes the address of the next instruction and goes on at the target; a call not taken
does not touch the stack; `RST` is a call to eight times its number. Rests on the spec's own decisions D4, D5. -/
def Obligations.CallsPushTheReturnAddress : Prop :=
  ∀ s : State,
    (∀ a16 : Word, codedAs [0b11001101, loByte a16, hiByte a16] (.callA16 a16) ∧
      pushes (.callA16 a16) s s.cpu.pc (jumped a16 (cyclesOf s 0b11001101))) ∧
    (∀ (cc : Cond) (a16 : Word),
      codedAs [0b110#3 ++ cc.index ++ 0b100#3, loByte a16, hiByte a16] (.callCcA16 cc a16) ∧
      (condTrue cc s.cpu.flags →
        pushes (.callCcA16 cc a16) s s.cpu.pc (jumped a16 (takenOf s (0b110#3 ++ cc.index ++ 0b100#3)))) ∧
      (¬condTrue cc s.cpu.flags →
        exec (.callCcA16 cc a16) s = .next (costing (cyclesOf s (0b110#3 ++ cc.index ++ 0b100#3)) s))) ∧
    (∀ n : BitVec 3, codedAs [0b11#2 ++ n ++ 0b111#3] (.rstN n) ∧
      pushes (.rstN n) s s.cpu.pc (jumped (BitVec.ofNat 16 (8 * n.toNat)) (cyclesOf s (0b11#2 ++ n ++ 0b111#3))))

/-- R318, R319, R320: a return goes on at the popped address; one not taken does not touch the stack; `RETI` enables
interrupts at once. Rests on the spec's own decisions D4, D5, D10. -/
def Obligations.ReturnsPopTheProgramCounter : Prop :=
  ∀ s : State,
    codedAs [0b11001001] .ret ∧
    pops .ret s (fun v => jumped v (cyclesOf s 0b11001001) (popped 0 s)) ∧
    (∀ cc : Cond, codedAs [0b110#3 ++ cc.index ++ 0b000#3] (.retCc cc) ∧
      (condTrue cc s.cpu.flags →
        pops (.retCc cc) s (fun v => jumped v (takenOf s (0b110#3 ++ cc.index ++ 0b000#3)) (popped 0 s))) ∧
      (¬condTrue cc s.cpu.flags →
        exec (.retCc cc) s = .next (costing (cyclesOf s (0b110#3 ++ cc.index ++ 0b000#3)) s))) ∧
    codedAs [0b11011001] .reti ∧
    pops .reti s (fun v => { s with
      cpu := { s.cpu with
        pc := v, sp := s.cpu.sp + 2, ime := true, imePending := false, cycI := cyclesOf s 0b11011001 } })

/-- R201, R316, R318: a return right after a call whose stack is plain storage goes on at the instruction after the
call, with `SP` and every other register as they were. Rests on the spec's own decisions D4, D5. -/
def Obligations.ReturnUndoesACall : Prop :=
  ∀ (s : State) (a16 : Word), s.mem.canonical = true → plainAt s (s.cpu.sp - 1) = true →
    plainAt s (s.cpu.sp - 2) = true → locate s (s.cpu.sp - 1) ≠ locate s (s.cpu.sp - 2) →
    ∃ t u, exec (.callA16 a16) s = .next t ∧ t.cpu.pc = a16 ∧ exec .ret t = .next u ∧
      u.cpu = { s.cpu with cycI := cyclesOf s 0b11001001 }

/-! ### System instructions -/

/-- R330, R331, R332, R333, R334: `NOP` only takes its cost, `HALT` and `STOP` set their flag, `DI` clears both
enables at once, `EI` sets the pending one only. Rests on the spec's own decisions D9, D10, D12. -/
def Obligations.SystemInstructionsSetTheControlFlags : Prop :=
  ∀ s : State,
    codedAs [0b00000000] .nop ∧
    exec .nop s = .next { s with cpu := { s.cpu with cycI := cyclesOf s 0b00000000 } } ∧
    codedAs [0b01110110] .halt ∧
    exec .halt s = .next { s with cpu := { s.cpu with halt := true, cycI := cyclesOf s 0b01110110 } } ∧
    (∀ padding : Byte, codedAs [0b00010000, padding] (.stop padding) ∧
      exec (.stop padding) s = .next { s with cpu := { s.cpu with stop := true, cycI := cyclesOf s 0b00010000 } }) ∧
    codedAs [0b11110011] .di ∧
    exec .di s = .next { s with
      cpu := { s.cpu with ime := false, imePending := false, cycI := cyclesOf s 0b11110011 } } ∧
    codedAs [0b11111011] .ei ∧
    exec .ei s = .next { s with cpu := { s.cpu with imePending := true, cycI := cyclesOf s 0b11111011 } }

/-! ### Interrupts, halt and stop -/

/-- R353, R354, R364, R365: with `IME` set and the core neither halted nor stopped, the lowest-numbered interrupt that
is requested and enabled is entered: its request bit alone and both enables are cleared, `pc` is pushed, `pc` becomes
`0x40 + 8 i`, the dispatch cost is added; a push without backing ends the run with the request already cleared;
otherwise the check does nothing. Rests on the spec's own decisions D8, D9, D12, D15. -/
def Obligations.InterruptEntryFollowsItsRule : Prop :=
  ∀ s : State,
    (s.cpu.ime = true → s.cpu.halt = false → s.cpu.stop = false → ∀ i, lowestPending s i →
      ∃ request : Byte, bitCleared i (ifReg s) request ∧
        (∀ t, pushStores s.cpu.pc (acknowledged request s) t →
          dispatch s = .ok () { t with
            cpu := { t.cpu with
              pc := BitVec.ofNat 16 (0x40 + 8 * i)
              cycI := t.cpu.cycI + s.setup.costs.intDispatch } }) ∧
        (∀ bad u, writeByte { acknowledged request s with
            cpu := { (acknowledged request s).cpu with sp := s.cpu.sp - 1 } } (s.cpu.sp - 1) (hiByte s.cpu.pc) =
              .fatal bad u → dispatch s = .fatal bad u) ∧
        (∀ bad u w, writeByte { acknowledged request s with
            cpu := { (acknowledged request s).cpu with sp := s.cpu.sp - 1 } } (s.cpu.sp - 1) (hiByte s.cpu.pc) = .ok () u →
          writeByte { u with cpu := { u.cpu with sp := s.cpu.sp - 2 } } (s.cpu.sp - 2) (loByte s.cpu.pc) = .fatal bad w →
          dispatch s = .fatal bad w)) ∧
    (s.cpu.ime = false ∨ s.cpu.halt = true ∨ s.cpu.stop = true ∨ nonePending s → dispatch s = .ok () s)

/-- R360, R362: a step that begins halted fetches nothing and takes the idle cost; an enabled request ends the halt
whatever `IME` is, and with `IME` set the interrupt is entered in the same step. Rests on the spec's own decisions D7,
D9. -/
def Obligations.HaltedStepWakesOnAnEnabledRequest : Prop :=
  ∀ s : State, s.cpu.halt = true → s.cpu.stop = false →
    (nonePending s → processorStep s = .next (idled s.setup.costs.haltIdle s)) ∧
    (¬nonePending s → s.cpu.ime = false →
      processorStep s = .next { idled s.setup.costs.haltIdle s with
        cpu := { (idled s.setup.costs.haltIdle s).cpu with halt := false } }) ∧
    (¬nonePending s → s.cpu.ime = true →
      processorStep s = afterBus
        (dispatch { s with cpu := { s.cpu with halt := false, cycI := s.setup.costs.haltIdle } })
        (fun _ t => .next { t with cpu := { t.cpu with cycT := t.cpu.cycT + t.cpu.cycI } }))

/-- R363, R334: the enable that `EI` leaves pending takes effect after the next instruction, unless that is `DI`; `EI`
itself enables nothing; no instruction but `EI`, `DI` and `RETI` changes the enables. Rests on the spec's own decision
D10. -/
def Obligations.EnableTakesEffectAfterTheNextInstruction : Prop :=
  ∀ (s t u : State) (i : Instr), fetchInstr s = .ok i u → executePath s = .next t →
    (s.cpu.imePending = true → i ≠ .di → t.cpu.ime = true ∧ t.cpu.imePending = false) ∧
    (i = .di → t.cpu.ime = false ∧ t.cpu.imePending = false) ∧
    (s.cpu.imePending = false → i = .ei → t.cpu.ime = s.cpu.ime ∧ t.cpu.imePending = true) ∧
    (i = .reti → t.cpu.ime = true ∧ t.cpu.imePending = false) ∧
    (s.cpu.imePending = false → i ≠ .ei → i ≠ .di → i ≠ .reti →
      t.cpu.ime = s.cpu.ime ∧ t.cpu.imePending = false)

/-- R361: the stopped part of a step takes the stop cost and fetches nothing; on `CGB` it ends the stop, switching the
speed and disarming if armed; on `DMG` the stop ends only when the host's predicate says so, by default never. Rests
on the spec's own decision D12. The list of the predicate's answers is the model's choice (log 10). -/
def Obligations.StoppedStepSwitchesTheSpeed : Prop :=
  ∀ s : State, s.cpu.stop = true →
    (isCgb s = true → (key1 s).getLsbD 0 = false →
      stepBody s = .next { s with cpu := { s.cpu with cycI := s.setup.costs.stopIdle, stop := false } }) ∧
    (isCgb s = true → (key1 s).getLsbD 0 = true →
      ∃ k : Byte, (∀ j, j < 8 → k.getLsbD j = (if j = 0 then false else if j = 7 then !(key1 s).getLsbD 7
          else (key1 s).getLsbD j)) ∧
        stepBody s = .next { s with
          cpu := { s.cpu with cycI := s.setup.costs.stopIdle, stop := false }
          mem := { s.mem with io := Memory.put s.mem.io 0x4D k } }) ∧
    (isCgb s = false → s.host.stopWakes = [] →
      stepBody s = .next { s with cpu := { s.cpu with cycI := s.setup.costs.stopIdle } }) ∧
    (∀ w rest, isCgb s = false → s.host.stopWakes = w :: rest →
      stepBody s = .next { s with
        cpu := { s.cpu with cycI := s.setup.costs.stopIdle, stop := !w }
        host := { s.host with stopWakes := rest } })

/-! ### The Bus -/

/-- R81, R85, R86, R93 to R97, R113, R114: what a read returns, by address. Rests on the spec's own decisions D16,
D23, D36. -/
def Obligations.ReadsFollowTheAddressMap : Prop :=
  ∀ (s : State) (addr : Word),
    (addr.toNat < 0x100 → s.ctl.bootActive = true →
      readByte s addr = some (Memory.get (s.setup.boot.getD []) addr.toNat)) ∧
    (addr.toNat < 0x4000 → s.ctl.bootActive = false ∨ 0x100 ≤ addr.toNat →
      readByte s addr = some (Memory.get s.setup.cart.rom addr.toNat)) ∧
    (0x4000 ≤ addr.toNat → addr.toNat < 0x8000 →
      readByte s addr = some (Memory.get s.setup.cart.rom (romBank s * 0x4000 + (addr.toNat - 0x4000)))) ∧
    (0x8000 ≤ addr.toNat → addr.toNat < 0xA000 →
      readByte s addr = some (Memory.get s.mem.vram (vramBank s * 0x2000 + (addr.toNat - 0x8000)))) ∧
    (0xA000 ≤ addr.toNat → addr.toNat < 0xC000 → s.ctl.eramEnabled = true →
      ramBank s * 0x2000 + (addr.toNat - 0xA000) < s.setup.cart.ramBytes →
      readByte s addr = some (Memory.get s.mem.eram (ramBank s * 0x2000 + (addr.toNat - 0xA000)))) ∧
    (0xC000 ≤ addr.toNat → addr.toNat < 0xD000 → readByte s addr = some (Memory.get s.mem.wram (addr.toNat - 0xC000))) ∧
    (0xD000 ≤ addr.toNat → addr.toNat < 0xE000 →
      readByte s addr = some (Memory.get s.mem.wram (wramBank s * 0x1000 + (addr.toNat - 0xD000)))) ∧
    (0xFE00 ≤ addr.toNat → addr.toNat < 0xFEA0 → readByte s addr = some (Memory.get s.mem.oam (addr.toNat - 0xFE00))) ∧
    (0xFF80 ≤ addr.toNat → addr.toNat < 0xFFFF → readByte s addr = some (Memory.get s.mem.hram (addr.toNat - 0xFF80))) ∧
    readByte s 0xFFFF = some s.mem.ie

/-- R96: a read or a write in the echo is the read or write `0x2000` lower. Rests on the spec's own decision D20. -/
def Obligations.EchoIsTheSameStorage : Prop :=
  ∀ (s : State) (addr : Word), 0xE000 ≤ addr.toNat → addr.toNat < 0xFE00 →
    readByte s addr = readByte s (addr - 0x2000) ∧ ∀ v, writeByte s addr v = writeByte s (addr - 0x2000) v

/-- R31, R32, R73, R87: no step changes the cartridge image, the boot image or any other configuration, and none
brings the boot overlay back; a write below `0x8000` changes the bank controller's registers and nothing else. Rests
on the spec's own decisions D24, D25. That the configuration stands in State is the model's choice (log 1). -/
def Obligations.NothingChangesTheCartridgeImage : Prop :=
  (∀ s t : State, step s = .next t → t.setup = s.setup ∧ (t.ctl.bootActive = true → s.ctl.bootActive = true)) ∧
    ∀ (s : State) (addr : Word) (v : Byte), addr.toNat < 0x8000 →
      ∃ t, writeByte s addr v = .ok () t ∧
        t = { s with
          ctl := { s.ctl with
            bankLo := t.ctl.bankLo, bankHi := t.ctl.bankHi, bankMode := t.ctl.bankMode
            eramEnabled := t.ctl.eramEnabled } }

/-- R40, R88 to R92: what each write region leaves in the bank registers for each controller, and the normalised bank
indices, which are always in range. Rests on the spec's own decisions D21, D22, D24. -/
def Obligations.BankRegistersSelectNormalisedBanks : Prop :=
  ∀ (s : State) (addr : Word) (v : Byte),
    (s.setup.cart.ctrl = .none → addr.toNat < 0x8000 → writeByte s addr v = .ok () s) ∧
    (s.setup.cart.ctrl ≠ .none → addr.toNat < 0x2000 →
      writeByte s addr v = .ok () { s with ctl := { s.ctl with eramEnabled := v.toNat % 16 == 10 } }) ∧
    (0x2000 ≤ addr.toNat → addr.toNat < 0x4000 → ∃ lo : BitVec 9,
      writeByte s addr v = .ok () { s with ctl := { s.ctl with bankLo := lo } } ∧
      (s.setup.cart.ctrl = .a → lo.toNat = v.toNat % 32) ∧ (s.setup.cart.ctrl = .b → lo.toNat = v.toNat % 128) ∧
      (s.setup.cart.ctrl = .c → addr.toNat < 0x3000 → lo.toNat = s.ctl.bankLo.toNat / 256 * 256 + v.toNat) ∧
      (s.setup.cart.ctrl = .c → 0x3000 ≤ addr.toNat → lo.toNat = v.toNat % 2 * 256 + s.ctl.bankLo.toNat % 256)) ∧
    (0x4000 ≤ addr.toNat → addr.toNat < 0x6000 → ∃ hi : BitVec 4,
      writeByte s addr v = .ok () { s with ctl := { s.ctl with bankHi := hi } } ∧
      (s.setup.cart.ctrl = .a ∨ s.setup.cart.ctrl = .b → hi.toNat = v.toNat % 4) ∧
      (s.setup.cart.ctrl = .c → hi.toNat = v.toNat % 16)) ∧
    (0x6000 ≤ addr.toNat → addr.toNat < 0x8000 →
      (s.setup.cart.ctrl = .a →
        writeByte s addr v = .ok () { s with ctl := { s.ctl with bankMode := v.toNat % 2 == 1 } }) ∧
      (s.setup.cart.ctrl ≠ .a → writeByte s addr v = .ok () s)) ∧
    (∃ idx rb : Nat,
      (s.setup.cart.ctrl = .none → idx = 0 ∧ rb = 0) ∧
      (s.setup.cart.ctrl = .a → s.ctl.bankLo.toNat < 32 → s.ctl.bankMode = false →
        idx = s.ctl.bankHi.toNat * 32 + s.ctl.bankLo.toNat ∧ rb = 0) ∧
      (s.setup.cart.ctrl = .a → s.ctl.bankMode = true → idx = s.ctl.bankLo.toNat ∧ rb = s.ctl.bankHi.toNat) ∧
      (s.setup.cart.ctrl = .b ∨ s.setup.cart.ctrl = .c → idx = s.ctl.bankLo.toNat ∧ rb = s.ctl.bankHi.toNat) ∧
      romBank s = (if idx % 32 = 0 then idx + 1 else idx) % s.setup.cart.romBanks ∧
      ramBank s = rb % max 1 ((s.setup.cart.ramBytes + 8191) / 8192)) ∧
    (s.setup.cart.wf = true →
      romBank s < s.setup.cart.romBanks ∧ ramBank s * 0x2000 < max s.setup.cart.ramBytes 1)

/-- R94, R98, R115, R350: the accesses without backing are exactly those of disabled or missing external RAM and of
`0xFEA0` to `0xFEFF`; a write there stores nothing; every other write succeeds except a `DMA` or `HDMA5` write whose
copy meets one; a Processor step ends in `ProcessorFault`, the devices end in `PixelProcessorFault`, the latch set
either way. Rests on the spec's own decisions D19, D23, D42. -/
def Obligations.FatalAccessesAreExactlyTheListed : Prop :=
  (∀ (s : State) (addr : Word),
    (readByte s addr = none ↔
      (0xA000 ≤ addr.toNat ∧ addr.toNat < 0xC000 ∧
        (s.ctl.eramEnabled = false ∨ s.setup.cart.ramBytes ≤ ramBank s * 0x2000 + (addr.toNat - 0xA000))) ∨
      (0xFEA0 ≤ addr.toNat ∧ addr.toNat < 0xFF00)) ∧
    (readByte s addr = none → ∀ v, writeByte s addr v = .fatal addr s) ∧
    (readByte s addr ≠ none → addr ≠ 0xFF46 → (isCgb s = false ∨ addr ≠ 0xFF55) →
      ∀ v, ∃ t, writeByte s addr v = .ok () t)) ∧
  (∀ (s : State) (r : Fault), processorStep s = .fault r → ∃ info u, r = .processorFault info u ∧
    u.fault = some ⟨.processor, info⟩) ∧
  (∀ (s : State) (r : Fault), devicesAdvance s = .fault r → ∃ addr u, r = .pixelProcessorFault (.address addr) u ∧
    u.fault = some ⟨.pixelProcessor, .address addr⟩)

/-- R71, R72, R102, R107 to R113: the writes to the I/O window outside the display and the DMA registers. Rests on the
spec's own decisions D12, D16, D18, D25, D26, D27, D32, D35, D45, D47. -/
def Obligations.IoWritesHaveTheirSideEffects : Prop :=
  ∀ (s : State) (v : Byte),
    writeByte s 0xFF00 v = .ok () { s with ctl := { s.ctl with joySelect := v.extractLsb' 4 2 } } ∧
    writeByte s 0xFF01 v = .ok () { s with
      mem := { s.mem with io := Memory.put s.mem.io 0x01 v }
      host := { s.host with
        serialOut := if s.setup.serialSink then s.host.serialOut ++ [v] else s.host.serialOut } } ∧
    writeByte s 0xFF04 v = .ok () { s with
      mem := { s.mem with io := Memory.put s.mem.io 0x04 0 }
      timer := { s.timer with divReset := true } } ∧
    writeByte s 0xFF44 v = .ok () s ∧
    writeByte s 0xFF50 v = .ok () { s with
      mem := { s.mem with io := Memory.put s.mem.io 0x50 v }
      ctl := { s.ctl with bootActive := false } } ∧
    writeByte s 0xFFFF v = .ok () { s with mem := { s.mem with ie := v } } ∧
    (∀ n, n < 0x80 → n ∉ [0x00, 0x01, 0x04, 0x40, 0x41, 0x44, 0x45, 0x46, 0x50] →
      (isCgb s = true → n ∉ [0x4D, 0x55, 0x69, 0x6B]) →
      writeByte s (BitVec.ofNat 16 (0xFF00 + n)) v = .ok () { s with
        mem := { s.mem with io := Memory.put s.mem.io n v } }) ∧
    (isCgb s = true →
      (∃ k : Byte, (∀ j, j < 8 → k.getLsbD j = if j = 7 then (key1 s).getLsbD 7 else v.getLsbD j) ∧
        writeByte s 0xFF4D v = .ok () { s with mem := { s.mem with io := Memory.put s.mem.io 0x4D k } }) ∧
      (∃ next : Byte, (next.toNat = if (bcps s).getLsbD 7 then
          (bcps s).toNat / 64 * 64 + ((bcps s).toNat % 64 + 1) % 64 else (bcps s).toNat) ∧
        writeByte s 0xFF69 v = .ok () { s with
          mem := { s.mem with
            bgpal := Memory.put s.mem.bgpal ((bcps s).toNat % 64) v
            io := Memory.put s.mem.io 0x68 next } }) ∧
      (∃ next : Byte, (next.toNat = if (ocps s).getLsbD 7 then
          (ocps s).toNat / 64 * 64 + ((ocps s).toNat % 64 + 1) % 64 else (ocps s).toNat) ∧
        writeByte s 0xFF6B v = .ok () { s with
          mem := { s.mem with
            objpal := Memory.put s.mem.objpal ((ocps s).toNat % 64) v
            io := Memory.put s.mem.io 0x6A next } }) ∧
      (s.mem.canonical = true → ∀ t, writeByte s 0xFF4F v = .ok () t → vramBank t = v.toNat % 2) ∧
      (s.mem.canonical = true → ∀ t, writeByte s 0xFF70 v = .ok () t →
        wramBank t = if v.toNat % 8 = 0 then 1 else v.toNat % 8))

/-- R103, R104, R105, R420: the writes to `LCDC`, `STAT` and `LYC`. Rests on the spec's own decisions D29, D31, D32.
-/
def Obligations.DisplayWritesHaveTheirSideEffects : Prop :=
  ∀ (s : State) (v : Byte), s.mem.canonical = true →
    (∃ t, writeByte s 0xFF40 v = .ok () t ∧ lcdc t = v ∧
      ((lcdc s).getLsbD 7 = true → v.getLsbD 7 = false →
        ly t = 0 ∧ ppuMode t = .hBlank ∧ t.ppu.cyc = 0 ∧ coincides s t 0 (lyc s) ∧
        (∀ j, 3 ≤ j → j < 8 → (stat t).getLsbD j = (stat s).getLsbD j) ∧
        t = { s with mem := { s.mem with io := t.mem.io }, ppu := { s.ppu with cyc := 0 } } ∧
        ioKept s t [0x0F, 0x40, 0x41, 0x44]) ∧
      ((lcdc s).getLsbD 7 = false ∨ v.getLsbD 7 = true →
        t = { s with mem := { s.mem with io := t.mem.io } } ∧ ioKept s t [0x40])) ∧
    (∃ t, writeByte s 0xFF41 v = .ok () t ∧
      (∀ j, j < 8 → (stat t).getLsbD j = if j < 3 then (stat s).getLsbD j else v.getLsbD j) ∧
      t = { s with mem := { s.mem with io := t.mem.io } } ∧ ioKept s t [0x41]) ∧
    (∃ t, writeByte s 0xFF45 v = .ok () t ∧ lyc t = v ∧ coincides s t (ly s) v ∧
      (∀ j, j < 8 → j ≠ 2 → (stat t).getLsbD j = (stat s).getLsbD j) ∧
      t = { s with mem := { s.mem with io := t.mem.io } } ∧ ioKept s t [0x0F, 0x41, 0x45])

/-- R106: the write to `DMA` stores its byte and copies the 160 bytes from `v * 0x100`, read through the Bus, into
object attribute memory, nothing else; the first byte that cannot be read ends it there, the bytes before it copied.
Rests on the spec's own decision D33. -/
def Obligations.OamDmaCopiesFromTheSource : Prop :=
  ∀ (s : State) (v : Byte), s.mem.canonical = true →
    ∃ stored : State, stored = { s with mem := { s.mem with io := Memory.put s.mem.io 0x46 v } } ∧
    ((∀ i, i < 160 → readByte stored (BitVec.ofNat 16 (v.toNat * 256 + i)) ≠ none) →
      ∃ t, writeByte s 0xFF46 v = .ok () t ∧ io t 0x46 = v ∧ ioKept s t [0x46] ∧
        (∀ i, i < 160 → some (Memory.get t.mem.oam i) = readByte stored (BitVec.ofNat 16 (v.toNat * 256 + i))) ∧
        (∀ i, 160 ≤ i → Memory.get t.mem.oam i = Memory.get s.mem.oam i) ∧
        t = { stored with mem := { stored.mem with oam := t.mem.oam } }) ∧
    (∀ j, j < 160 → (∀ i, i < j → readByte stored (BitVec.ofNat 16 (v.toNat * 256 + i)) ≠ none) →
      readByte stored (BitVec.ofNat 16 (v.toNat * 256 + j)) = none →
      ∃ t, writeByte s 0xFF46 v = .fatal (BitVec.ofNat 16 (v.toNat * 256 + j)) t ∧
        (∀ i, i < j → some (Memory.get t.mem.oam i) = readByte stored (BitVec.ofNat 16 (v.toNat * 256 + i))) ∧
        (∀ i, j ≤ i → Memory.get t.mem.oam i = Memory.get s.mem.oam i) ∧
        t = { stored with mem := { stored.mem with oam := t.mem.oam } })

/-- R99, R100, R454: the computed reads of the I/O window, and the plain ones. Rests on the spec's own decisions D18,
D26, D48. -/
def Obligations.IoReadsAreComputedOrPlain : Prop :=
  ∀ s : State,
    (∃ b : Byte, readByte s 0xFF00 = some b ∧ b.getLsbD 7 = true ∧ b.getLsbD 6 = true ∧
      b.getLsbD 5 = s.ctl.joySelect.getLsbD 1 ∧ b.getLsbD 4 = s.ctl.joySelect.getLsbD 0 ∧
      (∀ (k : Nat) (direction action : Bool),
        (k, direction, action) ∈
          [(0, s.host.keys.right, s.host.keys.a), (1, s.host.keys.left, s.host.keys.b),
            (2, s.host.keys.up, s.host.keys.select), (3, s.host.keys.down, s.host.keys.start)] →
        (b.getLsbD k = false ↔ (s.ctl.joySelect.getLsbD 0 = false ∧ direction = true) ∨
          (s.ctl.joySelect.getLsbD 1 = false ∧ action = true)))) ∧
    (isCgb s = true →
      (s.hdma.active = false → readByte s 0xFF55 = some 0xFF) ∧
      (s.hdma.active = true → ∃ b : Byte, readByte s 0xFF55 = some b ∧ b.toNat = (s.hdma.len / 16 - 1) % 128) ∧
      readByte s 0xFF69 = some (Memory.get s.mem.bgpal ((bcps s).toNat % 64)) ∧
      readByte s 0xFF6B = some (Memory.get s.mem.objpal ((ocps s).toNat % 64))) ∧
    (∀ n, 0 < n → n < 0x80 → (isCgb s = true → n ∉ [0x55, 0x69, 0x6B]) →
      readByte s (BitVec.ofNat 16 (0xFF00 + n)) = some (io s n))

/-- R452: the write to `HDMA5` cancels an active transfer, starts a stepped one, or copies all of an immediate one,
with the source, the destination and the length from `HDMA1` to `HDMA4` and the byte. The immediate copy moves every
byte in order (R451) and completes when every source byte can be read; the first that cannot is fatal, the bytes before
it copied and the engine's registers moved on by the whole chunks before it. Rests on the spec's own decision D34. -/
def Obligations.HdmaWriteStartsOrCancels : Prop :=
  ∀ (s : State) (v : Byte), isCgb s = true → s.mem.canonical = true →
    (s.hdma.active = true → v.toNat < 128 →
      writeByte s 0xFF55 v = .ok () { s with hdma := { s.hdma with active := false } }) ∧
    ∃ (src dst : Word) (n : Nat),
      src.toNat = (io s 0x51).toNat * 256 + (io s 0x52).toNat / 16 * 16 ∧
      dst.toNat = 0x8000 + (io s 0x53).toNat % 32 * 256 + (io s 0x54).toNat / 16 * 16 ∧
      n = (v.toNat % 128 + 1) * 16 ∧
      (128 ≤ v.toNat → writeByte s 0xFF55 v = .ok () { s with
        hdma := { src := src, dst := dst, len := n, active := true } }) ∧
      (v.toNat < 128 → s.hdma.active = false → s.setup.gdmaImmediate = false →
        writeByte s 0xFF55 v = .ok () { s with hdma := { src := src, dst := dst, len := n, active := true } }) ∧
      (v.toNat < 128 → s.hdma.active = false → s.setup.gdmaImmediate = true →
        ((∀ i, i < n → readByte s (src + BitVec.ofNat 16 i) ≠ none) →
          ∃ t, writeByte s 0xFF55 v = .ok () t ∧ copied s t src dst n ∧
            t = { s with
              mem := { s.mem with vram := t.mem.vram }
              hdma := { src := src + BitVec.ofNat 16 n, dst := dstAfter dst n, len := 0, active := false } }) ∧
        (∀ j, j < n → (∀ i, i < j → readByte s (src + BitVec.ofNat 16 i) ≠ none) →
          readByte s (src + BitVec.ofNat 16 j) = none →
          ∃ t, writeByte s 0xFF55 v = .fatal (src + BitVec.ofNat 16 j) t ∧ copied s t src dst j ∧
            t = { s with
              mem := { s.mem with vram := t.mem.vram }
              hdma :=
                { src := src + BitVec.ofNat 16 (j / 16 * 16), dst := dstAfter dst (j / 16 * 16)
                  len := n - j / 16 * 16, active := false } }))

/-- R451, R453: an H-blank step copies 16 bytes in order, read through the Bus wherever the source lies (video RAM and
the wrap at `0xFFFF` among it), into the selected video-RAM bank, wrapping inside it, moves the source and the
destination on by 16, and ends the transfer when nothing is left; the first byte that cannot be read is fatal, the
bytes before it copied, the engine's registers not moved. Rests on the spec's own decision D34. -/
def Obligations.HdmaStepCopiesOneChunk : Prop :=
  ∀ (s : State), s.mem.canonical = true → 0x8000 ≤ s.hdma.dst.toNat → s.hdma.dst.toNat < 0xA000 →
    ((∀ i, i < 16 → readByte s (s.hdma.src + BitVec.ofNat 16 i) ≠ none) →
      ∃ t, hdmaStep s = .ok () t ∧ copied s t s.hdma.src s.hdma.dst 16 ∧
        t = { s with
          mem := { s.mem with vram := t.mem.vram }
          hdma :=
            { src := s.hdma.src + 16, dst := dstAfter s.hdma.dst 16, len := s.hdma.len - 16
              active := s.hdma.active && decide (16 < s.hdma.len) } }) ∧
    (∀ j, j < 16 → (∀ i, i < j → readByte s (s.hdma.src + BitVec.ofNat 16 i) ≠ none) →
      readByte s (s.hdma.src + BitVec.ofNat 16 j) = none →
      ∃ t, hdmaStep s = .fatal (s.hdma.src + BitVec.ofNat 16 j) t ∧ copied s t s.hdma.src s.hdma.dst j ∧
        t = { s with mem := { s.mem with vram := t.mem.vram } })

/-! ### Frames over the whole instruction set -/

/-- Files 40 to 46: every instruction leaves every register and control flag alone but those its rule writes. -/
def Obligations.RegistersNotNamedAreKept : Prop :=
  ∀ (i : Instr) (s t : State), i ≠ .prefixCb → exec i s = .next t →
    (∀ r, r ≠ .f → r ∉ registersWritten i → reg8 t r = reg8 s r) ∧
    (writesSp i = false → t.cpu.sp = s.cpu.sp) ∧ (writesPc i = false → t.cpu.pc = s.cpu.pc) ∧
    (i ≠ .di → i ≠ .reti → t.cpu.ime = s.cpu.ime) ∧
    (i ≠ .di → i ≠ .ei → i ≠ .reti → t.cpu.imePending = s.cpu.imePending) ∧
    (i ≠ .halt → t.cpu.halt = s.cpu.halt) ∧ ((∀ b, i ≠ .stop b) → t.cpu.stop = s.cpu.stop) ∧
    t.cpu.cycT = s.cpu.cycT ∧ t.setup = s.setup ∧ t.sched = s.sched ∧ t.fault = s.fault

/-- R74: the flag table. -/
def Obligations.FlagsFollowTheFlagTable : Prop :=
  ∀ (i : Instr) (s t : State), i ≠ .prefixCb → i.wf = true → exec i s = .next t →
    flagAgrees (flagEffects i).1 s.cpu.flags.z t.cpu.flags.z ∧
    flagAgrees (flagEffects i).2.1 s.cpu.flags.n t.cpu.flags.n ∧
    flagAgrees (flagEffects i).2.2.1 s.cpu.flags.h t.cpu.flags.h ∧
    flagAgrees (flagEffects i).2.2.2 s.cpu.flags.c t.cpu.flags.c

/-- R8, R147, R151, R153: the cost of every instruction is the entry of the cost tables for its bytes, taken or not
taken; with the default tables that is the number of the grids, a multiple of 4 from 4 to 24. Rests on the spec's own
decision D6. -/
def Obligations.CostsFollowTheCostTable : Prop :=
  ∀ (i : Instr) (s t : State), i ≠ .prefixCb → i.wf = true → exec i s = .next t →
    t.cpu.cycI = costEntry s (encode i) (isTaken i s.cpu.flags) ∧
    (s.setup.costs = defaultCosts →
      t.cpu.cycI = rowCost i s.cpu.flags ∧ t.cpu.cycI % 4 = 0 ∧ 4 ≤ t.cpu.cycI ∧ t.cpu.cycI ≤ 24)

/-- R82, R118, R173 to R188, R200, R208, R241 to R243, R276 to R296, R316, R317, R321: where an instruction stores to
plain storage, or stores nothing, every address that is not the place of a stored byte reads as before and no device,
register of the Bus or output changes; where its one store goes anywhere but a DMA register, every byte of plain storage
other than the stored one is as before. -/
def Obligations.StoresChangeOnlyTheirBytes : Prop :=
  ∀ (i : Instr) (s t : State), s.mem.canonical = true → i ≠ .prefixCb → exec i s = .next t →
    ((∀ a ∈ storeAddresses i s, plainAt s a = true) →
      (∀ addr, (∀ a ∈ storeAddresses i s, locate s addr ≠ locate s a) → readByte t addr = readByte s addr) ∧
      t.timer = s.timer ∧ t.ppu = s.ppu ∧ t.hdma = s.hdma ∧ t.host = s.host ∧ t.mem.io = s.mem.io ∧
      t.mem.bgpal = s.mem.bgpal ∧ t.mem.objpal = s.mem.objpal ∧
      t.ctl = { s.ctl with eramDirty := t.ctl.eramDirty }) ∧
    (∀ a, storeAddresses i s = [a] → a ≠ 0xFF46 → a ≠ 0xFF55 →
      ∀ loc, plainPlace loc = true → loc ≠ locate s a → readLoc t loc = readLoc s loc)

/-! ### The Timer -/

/-- R382, R42: the divider counts every cycle, one step of `DIV` for every `DIV_PERIOD`, except those of the advance
that consumes a reset. Rests on the spec's own decision D28. -/
def Obligations.DividerCountsEveryCycle : Prop :=
  ∀ (s : State) (c : Nat), s.mem.canonical = true → 0 < s.setup.periods.div →
    (s.timer.divReset = false →
      (divAdvance c s).timer.divAcc < s.setup.periods.div ∧
      ((divReg (divAdvance c s)).toNat * s.setup.periods.div + (divAdvance c s).timer.divAcc) %
          (256 * s.setup.periods.div) =
        ((divReg s).toNat * s.setup.periods.div + s.timer.divAcc + c) % (256 * s.setup.periods.div)) ∧
    (s.timer.divReset = true →
      (divAdvance c s).timer.divAcc = 0 ∧ divReg (divAdvance c s) = 0 ∧ (divAdvance c s).timer.divReset = false) ∧
    ioKept s (divAdvance c s) [0x04] ∧
    divAdvance c s = { s with
      mem := { s.mem with io := (divAdvance c s).mem.io }
      timer := { s.timer with
        divAcc := (divAdvance c s).timer.divAcc, divReset := (divAdvance c s).timer.divReset } }

/-- R383: the main counter stands still while disabled; enabled it advances once for every whole period, reloading
from `TMA` and requesting interrupt 2 at `0xFF`; a change of period restarts the accumulator; and two advances with
nothing between are one of their sum. Rests on the spec's own decision D28. -/
def Obligations.MainCounterFollowsItsPeriod : Prop :=
  ∀ (s : State) (c : Nat), s.mem.canonical = true → s.setup.periods.wf = true →
    ((tacReg s).extractLsb' 0 2 ≠ s.timer.timaSel →
      timaAdvance c s = timaAdvance c { s with
        timer := { s.timer with timaSel := (tacReg s).extractLsb' 0 2, timaAcc := 0 } }) ∧
    ((tacReg s).extractLsb' 0 2 = s.timer.timaSel →
      ((tacReg s).getLsbD 2 = false → timaAdvance c s = s) ∧
      ((tacReg s).getLsbD 2 = true → s.timer.timaAcc + c < periodOf s s.timer.timaSel →
        timaAdvance c s = { s with timer := { s.timer with timaAcc := s.timer.timaAcc + c } }) ∧
      ((tacReg s).getLsbD 2 = true → periodOf s s.timer.timaSel ≤ s.timer.timaAcc + c →
        s.timer.timaAcc + c < 2 * periodOf s s.timer.timaSel →
        (timaAdvance c s).timer = { s.timer with timaAcc := s.timer.timaAcc + c - periodOf s s.timer.timaSel } ∧
        (timaReg s = 0xFF → timaReg (timaAdvance c s) = tmaReg s ∧
          bitAdded 2 (ifReg s) (ifReg (timaAdvance c s)) ∧ ioKept s (timaAdvance c s) [0x05, 0x0F]) ∧
        (timaReg s ≠ 0xFF → (timaReg (timaAdvance c s)).toNat = (timaReg s).toNat + 1 ∧
          ioKept s (timaAdvance c s) [0x05])) ∧
      ((tacReg s).getLsbD 2 = true → ∀ d, timaAdvance d (timaAdvance c s) = timaAdvance (c + d) s))

/-! ### The Pixel Processor -/

/-- R411, R412, R414, R420, R446, R453: with the display off an advance does nothing; with it on the cycles
accumulate, and the transition at the end of each mode goes to the mode, the scanline, the requests and the hand-over
of the rule and changes nothing else; entering H-blank with an active transfer on `CGB` runs exactly one H-blank DMA
step, whose fatal condition ends the advance. Rests on the spec's own decisions D29, D30, D31, D34. -/
def Obligations.DisplayModesFollowTheSchedule : Prop :=
  ∀ (s : State) (c : Nat), s.mem.canonical = true → s.setup.display.wf = true → s.ppuLegal →
    ((lcdc s).getLsbD 7 = false → ppuAdvance c s = .ok () s) ∧
    ((lcdc s).getLsbD 7 = true →
      (s.ppu.cyc + c < modeCycles s (ppuMode s) →
        ppuAdvance c s = .ok () { s with ppu := { s.ppu with cyc := s.ppu.cyc + c } }) ∧
      (ppuMode s = .oamSearch → s.setup.display.oam ≤ s.ppu.cyc + c →
        s.ppu.cyc + c < s.setup.display.oam + s.setup.display.xfer →
        ∃ t, ppuAdvance c s = .ok () t ∧ ppuMode t = .pixelTransfer ∧ (stat t).getLsbD 2 = (stat s).getLsbD 2 ∧
          onlyDisplay s t { s.ppu with cyc := s.ppu.cyc + c - s.setup.display.oam } s.host [0x41]) ∧
      (ppuMode s = .pixelTransfer → s.setup.display.xfer ≤ s.ppu.cyc + c →
        s.ppu.cyc + c < s.setup.display.xfer + s.setup.display.hblank →
        ∃ u, ppuMode u = .hBlank ∧ (stat u).getLsbD 2 = (stat s).getLsbD 2 ∧
          ((stat s).getLsbD 3 = true → bitAdded 1 (ifReg s) (ifReg u)) ∧
          ((stat s).getLsbD 3 = false → ifReg u = ifReg s) ∧
          onlyDisplay s u { (renderScanline (ly s).toNat s).ppu with cyc := s.ppu.cyc + c - s.setup.display.xfer } s.host
            [0x0F, 0x41] ∧
          (isCgb s = false ∨ s.hdma.active = false → ppuAdvance c s = .ok () u) ∧
          (isCgb s = true → s.hdma.active = true →
            (∀ t, hdmaStep u = .ok () t → ppuAdvance c s = .ok () t) ∧
            (∀ bad t, hdmaStep u = .fatal bad t → ppuAdvance c s = .fatal bad t))) ∧
      (ppuMode s = .hBlank → s.setup.display.hblank ≤ s.ppu.cyc + c →
        s.ppu.cyc + c < s.setup.display.hblank + min s.setup.display.oam s.setup.display.line →
        ∃ t, ppuAdvance c s = .ok () t ∧ (ly t).toNat = (ly s).toNat + 1 ∧
          ((ly s).toNat + 1 < s.setup.display.visible →
            ppuMode t = .oamSearch ∧ (ifReg t).getLsbD 0 = (ifReg s).getLsbD 0) ∧
          ((ly s).toNat + 1 = s.setup.display.visible → ppuMode t = .vBlank ∧ (ifReg t).getLsbD 0 = true) ∧
          ((stat t).getLsbD 2 = true ↔ ly t = lyc s) ∧
          ((ifReg t).getLsbD 1 = true ↔ (ifReg s).getLsbD 1 = true ∨ (ly t = lyc s ∧ (stat s).getLsbD 6 = true) ∨
            (stat s).getLsbD (if (ly s).toNat + 1 = s.setup.display.visible then 4 else 5) = true) ∧
          (∀ j, 2 ≤ j → j < 8 → (ifReg t).getLsbD j = (ifReg s).getLsbD j) ∧
          onlyDisplay s t { s.ppu with cyc := s.ppu.cyc + c - s.setup.display.hblank }
            (if (ly s).toNat + 1 = s.setup.display.visible then
              { s.host with frameCount := s.host.frameCount + 1, frameOut := some s.ppu.frame }
            else s.host)
            [0x0F, 0x41, 0x44]) ∧
      (ppuMode s = .vBlank → s.setup.display.line ≤ s.ppu.cyc + c →
        s.ppu.cyc + c < s.setup.display.line + min s.setup.display.oam s.setup.display.line →
        ∃ t, ppuAdvance c s = .ok () t ∧
          ((ly s).toNat + 1 < s.setup.display.lines → (ly t).toNat = (ly s).toNat + 1 ∧ ppuMode t = .vBlank) ∧
          ((ly s).toNat + 1 = s.setup.display.lines → ly t = 0 ∧ ppuMode t = .oamSearch) ∧
          ((stat t).getLsbD 2 = true ↔ ly t = lyc s) ∧
          ((ifReg t).getLsbD 1 = true ↔ (ifReg s).getLsbD 1 = true ∨ (ly t = lyc s ∧ (stat s).getLsbD 6 = true) ∨
            ((ly s).toNat + 1 = s.setup.display.lines ∧ (stat s).getLsbD 5 = true)) ∧
          (∀ j, j ≠ 1 → j < 8 → (ifReg t).getLsbD j = (ifReg s).getLsbD j) ∧
          onlyDisplay s t { s.ppu with cyc := s.ppu.cyc + c - s.setup.display.line } s.host [0x0F, 0x41, 0x44]))

/-- R430 to R437, R440, R441, R443, R444: rendering a line writes `linebg` and its row of the frame, nothing else. Every
pixel is the colour of the lowest-numbered object entry that draws there, else that of the window, the background or
the blank, whose index and priority `linebg` holds: tiles, flips, scrolling, palettes and priorities as the rules give
them. Rests on the spec's own decisions D36, D37, D38, D49. The frame by rendered rows and the free shades and
correction are the model's choice (log 7, 8, 9). -/
def Obligations.RenderingWritesOneRow : Prop :=
  ∀ (s : State) (line : Nat),
    renderScanline line s = { s with
      ppu := { s.ppu with linebg := (renderScanline line s).ppu.linebg, frame := (renderScanline line s).ppu.frame } } ∧
    (renderScanline line s).ppu.linebg.length = s.setup.display.screenW ∧
    (∀ row px, row ≠ line → framePixel (renderScanline line s).ppu.frame row px = framePixel s.ppu.frame row px) ∧
    (s.setup.display.screenH ≤ line → (renderScanline line s).ppu.frame = s.ppu.frame) ∧
    (∀ px, px < s.setup.display.screenW → ∃ idx prio under,
      layerShows s line px idx prio under ∧ linebgAt (renderScanline line s).ppu px = ⟨idx, prio⟩ ∧
      (line < s.setup.display.screenH →
        ((lcdc s).getLsbD 1 = false ∨ (∀ n colour, ¬objectDraws s line px idx prio n colour) →
          framePixel (renderScanline line s).ppu.frame line px = under) ∧
        ((lcdc s).getLsbD 1 = true → ∀ n colour, objectDraws s line px idx prio n colour →
          (∀ m, m < n → ∀ other, ¬objectDraws s line px idx prio m other) →
          framePixel (renderScanline line s).ppu.frame line px = colour)))

/-! ### The Scheduler -/

/-- R390, R474: the order of an iteration: the boot hand-over, which sets `pc` to `0x0100` once the overlay is gone,
the Processor, the Pixel Processor with half the cycles in double speed, the Timer unless stopped, the poll and the
flush; a fatal condition of the Pixel Processor ends it before the Timer and the poll; the poll comes exactly when the
accumulated cycles reach `SCHED_POLL_N`, which is then taken off. Rests on the spec's own decisions D13, D25, D41.
That a fatal end flushes the save file (`closeRun`) is read from R391 (log 15), the periodic flush asked for by a list
is the model's (log 12). -/
def Obligations.IterationRunsTheAgentsInOrder : Prop :=
  ∀ s : State, s.running →
    (s.sched.bootWatch = true → s.ctl.bootActive = false →
      step s = closeRun (thenOut (processorStep { s with
        cpu := { s.cpu with pc := 0x0100 }, sched := { s.sched with bootWatch := false } }) devicesAdvance)) ∧
    (¬(s.sched.bootWatch = true ∧ s.ctl.bootActive = false) →
      step s = closeRun (thenOut (processorStep s) devicesAdvance)) ∧
    (∀ t, ppuAdvance (if isCgb s = true ∧ (key1 s).getLsbD 7 = true then s.cpu.cycI / 2 else s.cpu.cycI) s = .ok () t →
      devicesAdvance s = .next (flushAdvance (pollAdvance s.cpu.cycI
        (if t.cpu.stop then t else timerAdvance s.cpu.cycI t)))) ∧
    (∀ bad t, ppuAdvance (if isCgb s = true ∧ (key1 s).getLsbD 7 = true then s.cpu.cycI / 2 else s.cpu.cycI) s =
        .fatal bad t →
      devicesAdvance s = .fault (.pixelProcessorFault (.address bad)
        { t with fault := some ⟨.pixelProcessor, .address bad⟩ })) ∧
    (∀ c, (s.sched.pollAcc + c < s.setup.pollEvery →
        pollAdvance c s = { s with sched := { s.sched with pollAcc := s.sched.pollAcc + c } }) ∧
      (s.setup.pollEvery ≤ s.sched.pollAcc + c →
        pollAdvance c s = inputPoll { s with
          sched := { s.sched with pollAcc := s.sched.pollAcc + c - s.setup.pollEvery } }))

/-- R392, R122: the input poll takes the host's answer as the new key snapshot and requests interrupt 4 exactly when a
key is newly pressed and the parameter asks for it; a save flush hands over external RAM and clears the dirty flag,
only for a battery cartridge whose flag is set. Rests on the spec's own decisions D26, D50. The lists of answers and
of flushes and the end latch are the model's choice (log 11, 12, 13). -/
def Obligations.PollAndFlushFollowTheirRules : Prop :=
  ∀ s : State, s.mem.canonical = true →
    (∀ ans rest, s.host.polls = ans :: rest → ans.quit = false →
      (inputPoll s).host = { s.host with polls := rest, keys := ans.keys } ∧
      (s.setup.joypadIrqOnPress = true → newlyPressed s.host.keys ans.keys = true →
        bitAdded 4 (ifReg s) (ifReg (inputPoll s))) ∧
      (s.setup.joypadIrqOnPress = false ∨ newlyPressed s.host.keys ans.keys = false →
        ifReg (inputPoll s) = ifReg s) ∧
      ioKept s (inputPoll s) [0x0F] ∧
      inputPoll s = { s with mem := { s.mem with io := (inputPoll s).mem.io }, host := (inputPoll s).host }) ∧
    (∀ ans rest, s.host.polls = ans :: rest → ans.quit = true →
      (inputPoll s).host.ended = true ∧ (s.fault = none → step (inputPoll s) = .refused .afterQuit)) ∧
    (s.setup.cart.battery = true → s.ctl.eramDirty = true →
      saveFlush s = { s with
        host := { s.host with saveOut := some s.mem.eram }, ctl := { s.ctl with eramDirty := false } }) ∧
    (s.setup.cart.battery = false ∨ s.ctl.eramDirty = false → saveFlush s = s)

/-! ### Invariants and reset -/

/-- Every step keeps every memory in its canonical form. The form itself is the model's choice (log 6). -/
def Obligations.StepKeepsMemoriesCanonical : Prop :=
  ∀ s t : State, s.mem.canonical = true → step s = .next t → t.mem.canonical = true

/-- R43, R58, R412, R413: every step keeps the scanline index below `PPU_LINES`, V-blank exactly on lines
`PPU_VISIBLE` and above, and the mode's cycles unspent, for display parameters the rules admit. Rests on the spec's
own decisions D29, D30, D32, D39. -/
def Obligations.StepKeepsTheDisplayOnSchedule : Prop :=
  ∀ s t : State, s.mem.canonical = true → s.setup.display.wf = true → s.ppuLegal → step s = .next t → t.ppuLegal

/-- R42, R45, R382, R383, R451 to R453: every step keeps the Timer's accumulators below their periods and the H-blank
DMA engine legal, for periods the rules admit. Rests on the spec's own decisions D28, D34. -/
def Obligations.StepKeepsTheDevicesLegal : Prop :=
  ∀ s t : State, s.setup.periods.wf = true → s.timerLegal → s.hdmaLegal → step s = .next t → t.timerLegal ∧ t.hdmaLegal

/-- R40, R88 to R91, R334: every step keeps the bank registers within the controller's width, external RAM disabled
where there is no controller, and a pending enable out of idle states. Rests on the spec's own decisions D10, D21. -/
def Obligations.StepKeepsTheControlLegal : Prop :=
  ∀ s t : State, s.controllerLegal → s.enableLegal → step s = .next t → t.controllerLegal ∧ t.enableLegal

/-- R9, R470: a cartridge record that violates R9 is refused before a session exists (U7 of
93_implementation_defined.md); for a configuration that R8 and R9 admit the session starts in the reset state, and with
the table of R471 as the `RESET` record that state meets every invariant the steps keep, and runs. Rests on the spec's
own decisions D39, D43. The zero contents of memory are the record's `unspec.` values (log 4, 6); that other parameters
are checked too is the model's choice (log 24). -/
def Obligations.ResetMeetsTheInvariants : Prop :=
  ∀ su : Setup,
    (su.cart.wf = false → powerOn su = .refused .malformedCart) ∧
    (su.cart.wf = true ↔
      2 ≤ su.cart.romBanks ∧ (∃ k, su.cart.romBanks = 2 ^ k) ∧ su.cart.rom.wf = true ∧
        (∀ cell ∈ su.cart.rom, cell.1 < su.cart.romBanks * 0x4000) ∧
        (su.cart.ramBytes = 2048 ∨ su.cart.ramBytes % 8192 = 0) ∧
        (∀ bytes, su.cart.save = some bytes → bytes.length = su.cart.ramBytes)) ∧
    (su.wf = true → powerOn su = .next (State.resetWith su) ∧
      (su.reset = defaultReset → (State.resetWith su).mem.canonical = true ∧ (State.resetWith su).ppuLegal ∧
        (State.resetWith su).timerLegal ∧ (State.resetWith su).hdmaLegal ∧ (State.resetWith su).controllerLegal ∧
        (State.resetWith su).enableLegal ∧ (State.resetWith su).executing))

/-- R470 to R473: what `RESET`, `BOOT` and `CART` give the machine after reset, and with the table of R471 the value of
every item, by variant and by the presence of a boot image. Rests on the spec's own decisions D25, D39. The values the
record marks `unspec.` are stored as zeros (log 4); the others are its own, from general knowledge (log 5); the empty
lists of host answers are the model's (log 10, 11, 12). -/
def Obligations.ResetValuesFollowTheResetRecord : Prop :=
  ∀ (su : Setup) (s : State), s = State.resetWith su →
    (∀ column : ResetValues,
      column = (if su.boot.isSome then su.reset.boot
        else if su.variant = .dmg then su.reset.noBootDmg else su.reset.noBootCgb) →
      s.setup = su ∧ s.cpu = column.cpu ∧ s.mem = { column.mem with eram := s.mem.eram } ∧
      s.ctl = { column.ctl with bootActive := su.boot.isSome } ∧ s.timer = column.timer ∧ s.ppu = column.ppu ∧
      s.hdma = column.hdma ∧ s.sched = { column.sched with bootWatch := su.boot.isSome } ∧ s.fault = none ∧
      s.host.keys = column.keys ∧ s.host.polls = [] ∧ s.host.stopWakes = [] ∧ s.host.flushes = [] ∧
      s.host.serialOut = [] ∧ s.host.frameCount = 0 ∧ s.host.frameOut = none ∧ s.host.saveOut = none ∧
      s.host.ended = false) ∧
    (∀ bytes, su.cart.save = some bytes → bytes.length = su.cart.ramBytes →
      ∀ k, Memory.get s.mem.eram k = bytes.getD k 0) ∧
    (su.cart.save = none ∨ (∃ bytes, su.cart.save = some bytes ∧ bytes.length ≠ su.cart.ramBytes) →
      s.mem.eram = []) ∧
    (su.reset = defaultReset →
      (su.boot = none → su.variant = .dmg →
        reg16 s .af = 0x01B0 ∧ reg16 s .bc = 0x0013 ∧ reg16 s .de = 0x00D8 ∧ reg16 s .hl = 0x014D) ∧
      (su.boot = none → su.variant = .cgb →
        reg16 s .af = 0x1180 ∧ reg16 s .bc = 0x0000 ∧ reg16 s .de = 0xFF56 ∧ reg16 s .hl = 0x000D) ∧
      (su.boot = none →
        s.cpu.sp = 0xFFFE ∧ s.cpu.pc = 0x0100 ∧ lcdc s = 0x91 ∧ stat s = 0x06 ∧ bgp s = 0xFC ∧ obp0 s = 0xFF ∧
        obp1 s = 0xFF ∧ ppuMode s = .oamSearch) ∧
      (su.boot ≠ none →
        reg16 s .af = 0 ∧ reg16 s .bc = 0 ∧ reg16 s .de = 0 ∧ reg16 s .hl = 0 ∧ s.cpu.sp = 0 ∧ s.cpu.pc = 0x0000 ∧
        lcdc s = 0 ∧ stat s = 0x04 ∧ bgp s = 0 ∧ obp0 s = 0 ∧ obp1 s = 0 ∧ ppuMode s = .hBlank) ∧
      s.cpu.ime = false ∧ s.cpu.imePending = false ∧ s.cpu.halt = false ∧ s.cpu.stop = false ∧ s.cpu.cycI = 0 ∧
      s.cpu.cycT = 0 ∧ s.mem.ie = 0 ∧ ifReg s = 0 ∧
      (∀ n, n ∉ [0x40, 0x41, 0x47, 0x48, 0x49] → io s n = 0) ∧
      (∀ k, Memory.get s.mem.vram k = 0 ∧ Memory.get s.mem.wram k = 0 ∧ Memory.get s.mem.oam k = 0 ∧
        Memory.get s.mem.hram k = 0 ∧ Memory.get s.mem.bgpal k = 0 ∧ Memory.get s.mem.objpal k = 0) ∧
      s.ctl.bankLo = 0 ∧ s.ctl.bankHi = 0 ∧ s.ctl.bankMode = false ∧ s.ctl.eramEnabled = false ∧
      s.ctl.eramDirty = false ∧ s.ctl.joySelect = 0 ∧ vramBank s = 0 ∧ wramBank s = 1 ∧ speed s = 0 ∧
      (2 ≤ su.cart.romBanks → romBank s = 1) ∧ ramBank s = 0 ∧
      s.timer = { divAcc := 0, timaAcc := 0, divReset := false, timaSel := 0 } ∧ s.ppu.cyc = 0 ∧
      s.hdma = { src := 0, dst := 0x8000, len := 0, active := false } ∧ s.sched.pollAcc = 0 ∧
      s.host.keys =
        { right := false, left := false, up := false, down := false, a := false, b := false, select := false
          start := false })
end

