-- ==== Sys2Proof/Laws/Memory.lean ====
section
/-! SUPPORT. The laws of one memory array: read after write, and the canonical form. -/

namespace Sys2Proof

namespace Memory

@[simp] theorem get_nil (k : Nat) : Memory.get [] k = Memory.unlisted := rfl

theorem get_cons (i : Nat) (b : Byte) (rest : Memory) (k : Nat) :
    Memory.get ((i, b) :: rest) k =
      if k < i then Memory.unlisted else if k = i then b else Memory.get rest k := rfl

/-- Below every listed offset the memory reads as unlisted. -/
theorem get_below {lo : Nat} {m : Memory} (h : Memory.risingFrom lo m = true) {k : Nat} (hk : k < lo) :
    Memory.get m k = Memory.unlisted := by
  cases m with
  | nil => rfl
  | cons c rest =>
    obtain ⟨i, b⟩ := c
    simp only [Memory.risingFrom, Bool.and_eq_true, decide_eq_true_eq] at h
    rw [get_cons, if_pos (by omega)]

/-- Rising from an offset is rising from every lower one. -/
theorem risingFrom_mono {lo lo' : Nat} {m : Memory} (hle : lo' ≤ lo) (h : Memory.risingFrom lo m = true) :
    Memory.risingFrom lo' m = true := by
  cases m with
  | nil => rfl
  | cons c rest =>
    obtain ⟨i, b⟩ := c
    simp only [Memory.risingFrom, Bool.and_eq_true, decide_eq_true_eq] at h ⊢
    exact ⟨⟨by omega, h.1.2⟩, h.2⟩

/-- The byte written is the byte read. -/
theorem get_put_self {lo : Nat} {m : Memory} (h : Memory.risingFrom lo m = true) (k : Nat) (v : Byte) :
    Memory.get (Memory.put m k v) k = v := by
  induction m generalizing lo with
  | nil =>
    simp only [Memory.put]
    split
    · next hv => rw [hv]; rfl
    · simp [get_cons]
  | cons c rest ih =>
    obtain ⟨i, b⟩ := c
    simp only [Memory.risingFrom, Bool.and_eq_true, decide_eq_true_eq] at h
    simp only [Memory.put]
    split
    · next hlt =>
      split
      · next hv => rw [hv, get_cons, if_pos hlt]
      · simp [get_cons]
    · next hge =>
      split
      · next heq =>
        split
        · next hv => rw [hv, get_below h.2 (by omega)]
        · simp [get_cons]
      · next hne =>
        rw [get_cons, if_neg hge, if_neg hne]
        exact ih h.2

/-- Every other byte is as it was. -/
theorem get_put_other {lo : Nat} {m : Memory} (h : Memory.risingFrom lo m = true) {k j : Nat} (hj : j ≠ k) (v : Byte) :
    Memory.get (Memory.put m k v) j = Memory.get m j := by
  induction m generalizing lo with
  | nil =>
    simp only [Memory.put]
    split
    · rfl
    · simp [get_cons, hj]
  | cons c rest ih =>
    obtain ⟨i, b⟩ := c
    simp only [Memory.risingFrom, Bool.and_eq_true, decide_eq_true_eq] at h
    simp only [Memory.put]
    split
    · next hlt =>
      split
      · rfl
      · rw [get_cons k]
        by_cases hjk : j < k
        · simp [get_cons, hjk, show j < i by omega]
        · simp [hjk, hj]
    · next hge =>
      split
      · next heq =>
        subst heq
        by_cases hjk : j < k
        · have hrest := get_below h.2 (show j < k + 1 by omega)
          split <;> simp [get_cons, hjk, hrest]
        · split <;> simp [get_cons, hjk, hj]
      · simp only [get_cons, ih h.2]

theorem get_put {lo : Nat} {m : Memory} (h : Memory.risingFrom lo m = true) (k j : Nat) (v : Byte) :
    Memory.get (Memory.put m k v) j = if j = k then v else Memory.get m j := by
  split
  · next hj => rw [hj, get_put_self h]
  · next hj => rw [get_put_other h hj]

/-- A write keeps the canonical form. -/
theorem put_rising {lo : Nat} {m : Memory} (h : Memory.risingFrom lo m = true) {k : Nat} (hk : lo ≤ k) (v : Byte) :
    Memory.risingFrom lo (Memory.put m k v) = true := by
  induction m generalizing lo with
  | nil =>
    simp only [Memory.put]
    split
    · rfl
    · next hv => simp [Memory.risingFrom, hk, hv]
  | cons c rest ih =>
    obtain ⟨i, b⟩ := c
    have h0 := h
    simp only [Memory.risingFrom, Bool.and_eq_true, decide_eq_true_eq] at h
    simp only [Memory.put]
    split
    · next hlt =>
      split
      · exact h0
      · next hv =>
        simp only [Memory.risingFrom, Bool.and_eq_true, decide_eq_true_eq]
        exact ⟨⟨hk, by simpa using hv⟩, ⟨by omega, h.1.2⟩, h.2⟩
    · next hge =>
      split
      · next heq =>
        split
        · exact risingFrom_mono (by omega) h.2
        · next hv =>
          simp only [Memory.risingFrom, Bool.and_eq_true, decide_eq_true_eq]
          exact ⟨⟨hk, by simpa using hv⟩, by rw [heq]; exact h.2⟩
      · simp only [Memory.risingFrom, Bool.and_eq_true, decide_eq_true_eq]
        exact ⟨h.1, ih h.2 (by omega)⟩

/-- A write keeps the canonical form. -/
theorem put_wf {m : Memory} (h : m.wf = true) (k : Nat) (v : Byte) : (Memory.put m k v).wf = true :=
  put_rising h (Nat.zero_le k) v

/-- Two canonical memories that read alike everywhere are the same list. -/
theorem rising_ext {lo : Nat} {m m' : Memory} (h : Memory.risingFrom lo m = true) (h' : Memory.risingFrom lo m' = true)
    (hget : ∀ k, Memory.get m k = Memory.get m' k) : m = m' := by
  induction m generalizing lo m' with
  | nil =>
    cases m' with
    | nil => rfl
    | cons c rest =>
      obtain ⟨i, b⟩ := c
      simp only [Memory.risingFrom, Bool.and_eq_true, bne_iff_ne] at h'
      have := hget i
      rw [get_cons, if_neg (by omega), if_pos rfl] at this
      exact absurd this.symm h'.1.2
  | cons c rest ih =>
    obtain ⟨i, b⟩ := c
    simp only [Memory.risingFrom, Bool.and_eq_true, bne_iff_ne, decide_eq_true_eq] at h
    cases m' with
    | nil =>
      have := hget i
      rw [get_cons, if_neg (by omega), if_pos rfl] at this
      exact absurd this h.1.2
    | cons c' rest' =>
      obtain ⟨i', b'⟩ := c'
      simp only [Memory.risingFrom, Bool.and_eq_true, bne_iff_ne, decide_eq_true_eq] at h'
      have hi : i = i' := by
        rcases Nat.lt_trichotomy i i' with hlt | heq | hgt
        · have := hget i
          rw [get_cons, get_cons, if_neg (by omega), if_pos rfl, if_pos hlt] at this
          exact absurd this h.1.2
        · exact heq
        · have := hget i'
          rw [get_cons, get_cons, if_neg (by omega : ¬ i' < i'), if_pos rfl, if_pos hgt] at this
          exact absurd this.symm h'.1.2
      subst hi
      have hb : b = b' := by
        have := hget i
        simpa [get_cons] using this
      have hrest : rest = rest' := by
        refine ih h.2 h'.2 fun k => ?_
        rcases Nat.lt_or_ge k (i + 1) with hk | hk
        · rw [get_below h.2 hk, get_below h'.2 hk]
        · have := hget k
          simpa [get_cons, show ¬ k < i by omega, show k ≠ i by omega] using this
      rw [hb, hrest]

/-- Two canonical memories that read alike everywhere are the same list. -/
theorem wf_ext {m m' : Memory} (h : m.wf = true) (h' : m'.wf = true)
    (hget : ∀ k, Memory.get m k = Memory.get m' k) : m = m' := rising_ext h h' hget

/-- Loading a list of bytes gives a canonical memory. -/
theorem ofBytesFrom_rising (base : Nat) (bytes : List Byte) :
    Memory.risingFrom base (Memory.ofBytesFrom base bytes) = true := by
  induction bytes generalizing base with
  | nil => rfl
  | cons b rest ih =>
    simp only [Memory.ofBytesFrom]
    split
    · exact risingFrom_mono (Nat.le_succ base) (ih (base + 1))
    · next hb => simp [Memory.risingFrom, hb, ih (base + 1)]

end Memory

/-- A memory of a size is in canonical form and lists offsets below it only. -/
theorem Memory.within_iff {size : Nat} {m : Memory} :
    m.within size = true ↔ m.wf = true ∧ ∀ entry ∈ m, entry.1 < size := by
  simp [Memory.within]

/-- External RAM starts in canonical form (R34, R470). -/
theorem Cart.initialRam_wf (c : Cart) : c.initialRam.wf = true := by
  unfold Cart.initialRam
  split
  · split
    · exact Memory.risingFrom_mono (Nat.zero_le 0) (Memory.ofBytesFrom_rising 0 _)
    · rfl
  · rfl

end Sys2Proof
end

