-- ==== Sys2Proof/Laws/State.lean ====
section
/-! SUPPORT. What each update of the state leaves in each field, one lemma per field per update. -/

namespace Sys2Proof.Machine

variable (s : State)


/-! ### `setFlags` -/

@[simp] theorem setFlags_setup (f : Flags) : (setFlags f s).setup = s.setup := rfl
@[simp] theorem setFlags_mem (f : Flags) : (setFlags f s).mem = s.mem := rfl
@[simp] theorem setFlags_ctl (f : Flags) : (setFlags f s).ctl = s.ctl := rfl
@[simp] theorem setFlags_timer (f : Flags) : (setFlags f s).timer = s.timer := rfl
@[simp] theorem setFlags_ppu (f : Flags) : (setFlags f s).ppu = s.ppu := rfl
@[simp] theorem setFlags_hdma (f : Flags) : (setFlags f s).hdma = s.hdma := rfl
@[simp] theorem setFlags_sched (f : Flags) : (setFlags f s).sched = s.sched := rfl
@[simp] theorem setFlags_host (f : Flags) : (setFlags f s).host = s.host := rfl
@[simp] theorem setFlags_fault (f : Flags) : (setFlags f s).fault = s.fault := rfl
@[simp] theorem setFlags_cpu_a (f : Flags) : (setFlags f s).cpu.a = s.cpu.a := rfl
@[simp] theorem setFlags_cpu_flags (f : Flags) : (setFlags f s).cpu.flags = f := rfl
@[simp] theorem setFlags_cpu_b (f : Flags) : (setFlags f s).cpu.b = s.cpu.b := rfl
@[simp] theorem setFlags_cpu_c (f : Flags) : (setFlags f s).cpu.c = s.cpu.c := rfl
@[simp] theorem setFlags_cpu_d (f : Flags) : (setFlags f s).cpu.d = s.cpu.d := rfl
@[simp] theorem setFlags_cpu_e (f : Flags) : (setFlags f s).cpu.e = s.cpu.e := rfl
@[simp] theorem setFlags_cpu_h (f : Flags) : (setFlags f s).cpu.h = s.cpu.h := rfl
@[simp] theorem setFlags_cpu_l (f : Flags) : (setFlags f s).cpu.l = s.cpu.l := rfl
@[simp] theorem setFlags_cpu_sp (f : Flags) : (setFlags f s).cpu.sp = s.cpu.sp := rfl
@[simp] theorem setFlags_cpu_pc (f : Flags) : (setFlags f s).cpu.pc = s.cpu.pc := rfl
@[simp] theorem setFlags_cpu_ime (f : Flags) : (setFlags f s).cpu.ime = s.cpu.ime := rfl
@[simp] theorem setFlags_cpu_imePending (f : Flags) : (setFlags f s).cpu.imePending = s.cpu.imePending := rfl
@[simp] theorem setFlags_cpu_halt (f : Flags) : (setFlags f s).cpu.halt = s.cpu.halt := rfl
@[simp] theorem setFlags_cpu_stop (f : Flags) : (setFlags f s).cpu.stop = s.cpu.stop := rfl
@[simp] theorem setFlags_cpu_cycI (f : Flags) : (setFlags f s).cpu.cycI = s.cpu.cycI := rfl
@[simp] theorem setFlags_cpu_cycT (f : Flags) : (setFlags f s).cpu.cycT = s.cpu.cycT := rfl

/-! ### `setPc` -/

@[simp] theorem setPc_setup (v : Word) : (setPc v s).setup = s.setup := rfl
@[simp] theorem setPc_mem (v : Word) : (setPc v s).mem = s.mem := rfl
@[simp] theorem setPc_ctl (v : Word) : (setPc v s).ctl = s.ctl := rfl
@[simp] theorem setPc_timer (v : Word) : (setPc v s).timer = s.timer := rfl
@[simp] theorem setPc_ppu (v : Word) : (setPc v s).ppu = s.ppu := rfl
@[simp] theorem setPc_hdma (v : Word) : (setPc v s).hdma = s.hdma := rfl
@[simp] theorem setPc_sched (v : Word) : (setPc v s).sched = s.sched := rfl
@[simp] theorem setPc_host (v : Word) : (setPc v s).host = s.host := rfl
@[simp] theorem setPc_fault (v : Word) : (setPc v s).fault = s.fault := rfl
@[simp] theorem setPc_cpu_a (v : Word) : (setPc v s).cpu.a = s.cpu.a := rfl
@[simp] theorem setPc_cpu_flags (v : Word) : (setPc v s).cpu.flags = s.cpu.flags := rfl
@[simp] theorem setPc_cpu_b (v : Word) : (setPc v s).cpu.b = s.cpu.b := rfl
@[simp] theorem setPc_cpu_c (v : Word) : (setPc v s).cpu.c = s.cpu.c := rfl
@[simp] theorem setPc_cpu_d (v : Word) : (setPc v s).cpu.d = s.cpu.d := rfl
@[simp] theorem setPc_cpu_e (v : Word) : (setPc v s).cpu.e = s.cpu.e := rfl
@[simp] theorem setPc_cpu_h (v : Word) : (setPc v s).cpu.h = s.cpu.h := rfl
@[simp] theorem setPc_cpu_l (v : Word) : (setPc v s).cpu.l = s.cpu.l := rfl
@[simp] theorem setPc_cpu_sp (v : Word) : (setPc v s).cpu.sp = s.cpu.sp := rfl
@[simp] theorem setPc_cpu_pc (v : Word) : (setPc v s).cpu.pc = v := rfl
@[simp] theorem setPc_cpu_ime (v : Word) : (setPc v s).cpu.ime = s.cpu.ime := rfl
@[simp] theorem setPc_cpu_imePending (v : Word) : (setPc v s).cpu.imePending = s.cpu.imePending := rfl
@[simp] theorem setPc_cpu_halt (v : Word) : (setPc v s).cpu.halt = s.cpu.halt := rfl
@[simp] theorem setPc_cpu_stop (v : Word) : (setPc v s).cpu.stop = s.cpu.stop := rfl
@[simp] theorem setPc_cpu_cycI (v : Word) : (setPc v s).cpu.cycI = s.cpu.cycI := rfl
@[simp] theorem setPc_cpu_cycT (v : Word) : (setPc v s).cpu.cycT = s.cpu.cycT := rfl

/-! ### `setCost` -/

@[simp] theorem setCost_setup (n : Nat) : (setCost n s).setup = s.setup := rfl
@[simp] theorem setCost_mem (n : Nat) : (setCost n s).mem = s.mem := rfl
@[simp] theorem setCost_ctl (n : Nat) : (setCost n s).ctl = s.ctl := rfl
@[simp] theorem setCost_timer (n : Nat) : (setCost n s).timer = s.timer := rfl
@[simp] theorem setCost_ppu (n : Nat) : (setCost n s).ppu = s.ppu := rfl
@[simp] theorem setCost_hdma (n : Nat) : (setCost n s).hdma = s.hdma := rfl
@[simp] theorem setCost_sched (n : Nat) : (setCost n s).sched = s.sched := rfl
@[simp] theorem setCost_host (n : Nat) : (setCost n s).host = s.host := rfl
@[simp] theorem setCost_fault (n : Nat) : (setCost n s).fault = s.fault := rfl
@[simp] theorem setCost_cpu_a (n : Nat) : (setCost n s).cpu.a = s.cpu.a := rfl
@[simp] theorem setCost_cpu_flags (n : Nat) : (setCost n s).cpu.flags = s.cpu.flags := rfl
@[simp] theorem setCost_cpu_b (n : Nat) : (setCost n s).cpu.b = s.cpu.b := rfl
@[simp] theorem setCost_cpu_c (n : Nat) : (setCost n s).cpu.c = s.cpu.c := rfl
@[simp] theorem setCost_cpu_d (n : Nat) : (setCost n s).cpu.d = s.cpu.d := rfl
@[simp] theorem setCost_cpu_e (n : Nat) : (setCost n s).cpu.e = s.cpu.e := rfl
@[simp] theorem setCost_cpu_h (n : Nat) : (setCost n s).cpu.h = s.cpu.h := rfl
@[simp] theorem setCost_cpu_l (n : Nat) : (setCost n s).cpu.l = s.cpu.l := rfl
@[simp] theorem setCost_cpu_sp (n : Nat) : (setCost n s).cpu.sp = s.cpu.sp := rfl
@[simp] theorem setCost_cpu_pc (n : Nat) : (setCost n s).cpu.pc = s.cpu.pc := rfl
@[simp] theorem setCost_cpu_ime (n : Nat) : (setCost n s).cpu.ime = s.cpu.ime := rfl
@[simp] theorem setCost_cpu_imePending (n : Nat) : (setCost n s).cpu.imePending = s.cpu.imePending := rfl
@[simp] theorem setCost_cpu_halt (n : Nat) : (setCost n s).cpu.halt = s.cpu.halt := rfl
@[simp] theorem setCost_cpu_stop (n : Nat) : (setCost n s).cpu.stop = s.cpu.stop := rfl
@[simp] theorem setCost_cpu_cycI (n : Nat) : (setCost n s).cpu.cycI = n := rfl
@[simp] theorem setCost_cpu_cycT (n : Nat) : (setCost n s).cpu.cycT = s.cpu.cycT := rfl

/-! ### `addCost` -/

@[simp] theorem addCost_setup (n : Nat) : (addCost n s).setup = s.setup := rfl
@[simp] theorem addCost_mem (n : Nat) : (addCost n s).mem = s.mem := rfl
@[simp] theorem addCost_ctl (n : Nat) : (addCost n s).ctl = s.ctl := rfl
@[simp] theorem addCost_timer (n : Nat) : (addCost n s).timer = s.timer := rfl
@[simp] theorem addCost_ppu (n : Nat) : (addCost n s).ppu = s.ppu := rfl
@[simp] theorem addCost_hdma (n : Nat) : (addCost n s).hdma = s.hdma := rfl
@[simp] theorem addCost_sched (n : Nat) : (addCost n s).sched = s.sched := rfl
@[simp] theorem addCost_host (n : Nat) : (addCost n s).host = s.host := rfl
@[simp] theorem addCost_fault (n : Nat) : (addCost n s).fault = s.fault := rfl
@[simp] theorem addCost_cpu_a (n : Nat) : (addCost n s).cpu.a = s.cpu.a := rfl
@[simp] theorem addCost_cpu_flags (n : Nat) : (addCost n s).cpu.flags = s.cpu.flags := rfl
@[simp] theorem addCost_cpu_b (n : Nat) : (addCost n s).cpu.b = s.cpu.b := rfl
@[simp] theorem addCost_cpu_c (n : Nat) : (addCost n s).cpu.c = s.cpu.c := rfl
@[simp] theorem addCost_cpu_d (n : Nat) : (addCost n s).cpu.d = s.cpu.d := rfl
@[simp] theorem addCost_cpu_e (n : Nat) : (addCost n s).cpu.e = s.cpu.e := rfl
@[simp] theorem addCost_cpu_h (n : Nat) : (addCost n s).cpu.h = s.cpu.h := rfl
@[simp] theorem addCost_cpu_l (n : Nat) : (addCost n s).cpu.l = s.cpu.l := rfl
@[simp] theorem addCost_cpu_sp (n : Nat) : (addCost n s).cpu.sp = s.cpu.sp := rfl
@[simp] theorem addCost_cpu_pc (n : Nat) : (addCost n s).cpu.pc = s.cpu.pc := rfl
@[simp] theorem addCost_cpu_ime (n : Nat) : (addCost n s).cpu.ime = s.cpu.ime := rfl
@[simp] theorem addCost_cpu_imePending (n : Nat) : (addCost n s).cpu.imePending = s.cpu.imePending := rfl
@[simp] theorem addCost_cpu_halt (n : Nat) : (addCost n s).cpu.halt = s.cpu.halt := rfl
@[simp] theorem addCost_cpu_stop (n : Nat) : (addCost n s).cpu.stop = s.cpu.stop := rfl
@[simp] theorem addCost_cpu_cycI (n : Nat) : (addCost n s).cpu.cycI = s.cpu.cycI + n := rfl
@[simp] theorem addCost_cpu_cycT (n : Nat) : (addCost n s).cpu.cycT = s.cpu.cycT := rfl

/-! ### `addTotal` -/

@[simp] theorem addTotal_setup : (addTotal s).setup = s.setup := rfl
@[simp] theorem addTotal_mem : (addTotal s).mem = s.mem := rfl
@[simp] theorem addTotal_ctl : (addTotal s).ctl = s.ctl := rfl
@[simp] theorem addTotal_timer : (addTotal s).timer = s.timer := rfl
@[simp] theorem addTotal_ppu : (addTotal s).ppu = s.ppu := rfl
@[simp] theorem addTotal_hdma : (addTotal s).hdma = s.hdma := rfl
@[simp] theorem addTotal_sched : (addTotal s).sched = s.sched := rfl
@[simp] theorem addTotal_host : (addTotal s).host = s.host := rfl
@[simp] theorem addTotal_fault : (addTotal s).fault = s.fault := rfl
@[simp] theorem addTotal_cpu_a : (addTotal s).cpu.a = s.cpu.a := rfl
@[simp] theorem addTotal_cpu_flags : (addTotal s).cpu.flags = s.cpu.flags := rfl
@[simp] theorem addTotal_cpu_b : (addTotal s).cpu.b = s.cpu.b := rfl
@[simp] theorem addTotal_cpu_c : (addTotal s).cpu.c = s.cpu.c := rfl
@[simp] theorem addTotal_cpu_d : (addTotal s).cpu.d = s.cpu.d := rfl
@[simp] theorem addTotal_cpu_e : (addTotal s).cpu.e = s.cpu.e := rfl
@[simp] theorem addTotal_cpu_h : (addTotal s).cpu.h = s.cpu.h := rfl
@[simp] theorem addTotal_cpu_l : (addTotal s).cpu.l = s.cpu.l := rfl
@[simp] theorem addTotal_cpu_sp : (addTotal s).cpu.sp = s.cpu.sp := rfl
@[simp] theorem addTotal_cpu_pc : (addTotal s).cpu.pc = s.cpu.pc := rfl
@[simp] theorem addTotal_cpu_ime : (addTotal s).cpu.ime = s.cpu.ime := rfl
@[simp] theorem addTotal_cpu_imePending : (addTotal s).cpu.imePending = s.cpu.imePending := rfl
@[simp] theorem addTotal_cpu_halt : (addTotal s).cpu.halt = s.cpu.halt := rfl
@[simp] theorem addTotal_cpu_stop : (addTotal s).cpu.stop = s.cpu.stop := rfl
@[simp] theorem addTotal_cpu_cycI : (addTotal s).cpu.cycI = s.cpu.cycI := rfl
@[simp] theorem addTotal_cpu_cycT : (addTotal s).cpu.cycT = s.cpu.cycT + s.cpu.cycI := rfl

/-! ### `setIme` -/

@[simp] theorem setIme_setup (b : Bool) : (setIme b s).setup = s.setup := rfl
@[simp] theorem setIme_mem (b : Bool) : (setIme b s).mem = s.mem := rfl
@[simp] theorem setIme_ctl (b : Bool) : (setIme b s).ctl = s.ctl := rfl
@[simp] theorem setIme_timer (b : Bool) : (setIme b s).timer = s.timer := rfl
@[simp] theorem setIme_ppu (b : Bool) : (setIme b s).ppu = s.ppu := rfl
@[simp] theorem setIme_hdma (b : Bool) : (setIme b s).hdma = s.hdma := rfl
@[simp] theorem setIme_sched (b : Bool) : (setIme b s).sched = s.sched := rfl
@[simp] theorem setIme_host (b : Bool) : (setIme b s).host = s.host := rfl
@[simp] theorem setIme_fault (b : Bool) : (setIme b s).fault = s.fault := rfl
@[simp] theorem setIme_cpu_a (b : Bool) : (setIme b s).cpu.a = s.cpu.a := rfl
@[simp] theorem setIme_cpu_flags (b : Bool) : (setIme b s).cpu.flags = s.cpu.flags := rfl
@[simp] theorem setIme_cpu_b (b : Bool) : (setIme b s).cpu.b = s.cpu.b := rfl
@[simp] theorem setIme_cpu_c (b : Bool) : (setIme b s).cpu.c = s.cpu.c := rfl
@[simp] theorem setIme_cpu_d (b : Bool) : (setIme b s).cpu.d = s.cpu.d := rfl
@[simp] theorem setIme_cpu_e (b : Bool) : (setIme b s).cpu.e = s.cpu.e := rfl
@[simp] theorem setIme_cpu_h (b : Bool) : (setIme b s).cpu.h = s.cpu.h := rfl
@[simp] theorem setIme_cpu_l (b : Bool) : (setIme b s).cpu.l = s.cpu.l := rfl
@[simp] theorem setIme_cpu_sp (b : Bool) : (setIme b s).cpu.sp = s.cpu.sp := rfl
@[simp] theorem setIme_cpu_pc (b : Bool) : (setIme b s).cpu.pc = s.cpu.pc := rfl
@[simp] theorem setIme_cpu_ime (b : Bool) : (setIme b s).cpu.ime = b := rfl
@[simp] theorem setIme_cpu_imePending (b : Bool) : (setIme b s).cpu.imePending = s.cpu.imePending := rfl
@[simp] theorem setIme_cpu_halt (b : Bool) : (setIme b s).cpu.halt = s.cpu.halt := rfl
@[simp] theorem setIme_cpu_stop (b : Bool) : (setIme b s).cpu.stop = s.cpu.stop := rfl
@[simp] theorem setIme_cpu_cycI (b : Bool) : (setIme b s).cpu.cycI = s.cpu.cycI := rfl
@[simp] theorem setIme_cpu_cycT (b : Bool) : (setIme b s).cpu.cycT = s.cpu.cycT := rfl

/-! ### `setImePending` -/

@[simp] theorem setImePending_setup (b : Bool) : (setImePending b s).setup = s.setup := rfl
@[simp] theorem setImePending_mem (b : Bool) : (setImePending b s).mem = s.mem := rfl
@[simp] theorem setImePending_ctl (b : Bool) : (setImePending b s).ctl = s.ctl := rfl
@[simp] theorem setImePending_timer (b : Bool) : (setImePending b s).timer = s.timer := rfl
@[simp] theorem setImePending_ppu (b : Bool) : (setImePending b s).ppu = s.ppu := rfl
@[simp] theorem setImePending_hdma (b : Bool) : (setImePending b s).hdma = s.hdma := rfl
@[simp] theorem setImePending_sched (b : Bool) : (setImePending b s).sched = s.sched := rfl
@[simp] theorem setImePending_host (b : Bool) : (setImePending b s).host = s.host := rfl
@[simp] theorem setImePending_fault (b : Bool) : (setImePending b s).fault = s.fault := rfl
@[simp] theorem setImePending_cpu_a (b : Bool) : (setImePending b s).cpu.a = s.cpu.a := rfl
@[simp] theorem setImePending_cpu_flags (b : Bool) : (setImePending b s).cpu.flags = s.cpu.flags := rfl
@[simp] theorem setImePending_cpu_b (b : Bool) : (setImePending b s).cpu.b = s.cpu.b := rfl
@[simp] theorem setImePending_cpu_c (b : Bool) : (setImePending b s).cpu.c = s.cpu.c := rfl
@[simp] theorem setImePending_cpu_d (b : Bool) : (setImePending b s).cpu.d = s.cpu.d := rfl
@[simp] theorem setImePending_cpu_e (b : Bool) : (setImePending b s).cpu.e = s.cpu.e := rfl
@[simp] theorem setImePending_cpu_h (b : Bool) : (setImePending b s).cpu.h = s.cpu.h := rfl
@[simp] theorem setImePending_cpu_l (b : Bool) : (setImePending b s).cpu.l = s.cpu.l := rfl
@[simp] theorem setImePending_cpu_sp (b : Bool) : (setImePending b s).cpu.sp = s.cpu.sp := rfl
@[simp] theorem setImePending_cpu_pc (b : Bool) : (setImePending b s).cpu.pc = s.cpu.pc := rfl
@[simp] theorem setImePending_cpu_ime (b : Bool) : (setImePending b s).cpu.ime = s.cpu.ime := rfl
@[simp] theorem setImePending_cpu_imePending (b : Bool) : (setImePending b s).cpu.imePending = b := rfl
@[simp] theorem setImePending_cpu_halt (b : Bool) : (setImePending b s).cpu.halt = s.cpu.halt := rfl
@[simp] theorem setImePending_cpu_stop (b : Bool) : (setImePending b s).cpu.stop = s.cpu.stop := rfl
@[simp] theorem setImePending_cpu_cycI (b : Bool) : (setImePending b s).cpu.cycI = s.cpu.cycI := rfl
@[simp] theorem setImePending_cpu_cycT (b : Bool) : (setImePending b s).cpu.cycT = s.cpu.cycT := rfl

/-! ### `setHalt` -/

@[simp] theorem setHalt_setup (b : Bool) : (setHalt b s).setup = s.setup := rfl
@[simp] theorem setHalt_mem (b : Bool) : (setHalt b s).mem = s.mem := rfl
@[simp] theorem setHalt_ctl (b : Bool) : (setHalt b s).ctl = s.ctl := rfl
@[simp] theorem setHalt_timer (b : Bool) : (setHalt b s).timer = s.timer := rfl
@[simp] theorem setHalt_ppu (b : Bool) : (setHalt b s).ppu = s.ppu := rfl
@[simp] theorem setHalt_hdma (b : Bool) : (setHalt b s).hdma = s.hdma := rfl
@[simp] theorem setHalt_sched (b : Bool) : (setHalt b s).sched = s.sched := rfl
@[simp] theorem setHalt_host (b : Bool) : (setHalt b s).host = s.host := rfl
@[simp] theorem setHalt_fault (b : Bool) : (setHalt b s).fault = s.fault := rfl
@[simp] theorem setHalt_cpu_a (b : Bool) : (setHalt b s).cpu.a = s.cpu.a := rfl
@[simp] theorem setHalt_cpu_flags (b : Bool) : (setHalt b s).cpu.flags = s.cpu.flags := rfl
@[simp] theorem setHalt_cpu_b (b : Bool) : (setHalt b s).cpu.b = s.cpu.b := rfl
@[simp] theorem setHalt_cpu_c (b : Bool) : (setHalt b s).cpu.c = s.cpu.c := rfl
@[simp] theorem setHalt_cpu_d (b : Bool) : (setHalt b s).cpu.d = s.cpu.d := rfl
@[simp] theorem setHalt_cpu_e (b : Bool) : (setHalt b s).cpu.e = s.cpu.e := rfl
@[simp] theorem setHalt_cpu_h (b : Bool) : (setHalt b s).cpu.h = s.cpu.h := rfl
@[simp] theorem setHalt_cpu_l (b : Bool) : (setHalt b s).cpu.l = s.cpu.l := rfl
@[simp] theorem setHalt_cpu_sp (b : Bool) : (setHalt b s).cpu.sp = s.cpu.sp := rfl
@[simp] theorem setHalt_cpu_pc (b : Bool) : (setHalt b s).cpu.pc = s.cpu.pc := rfl
@[simp] theorem setHalt_cpu_ime (b : Bool) : (setHalt b s).cpu.ime = s.cpu.ime := rfl
@[simp] theorem setHalt_cpu_imePending (b : Bool) : (setHalt b s).cpu.imePending = s.cpu.imePending := rfl
@[simp] theorem setHalt_cpu_halt (b : Bool) : (setHalt b s).cpu.halt = b := rfl
@[simp] theorem setHalt_cpu_stop (b : Bool) : (setHalt b s).cpu.stop = s.cpu.stop := rfl
@[simp] theorem setHalt_cpu_cycI (b : Bool) : (setHalt b s).cpu.cycI = s.cpu.cycI := rfl
@[simp] theorem setHalt_cpu_cycT (b : Bool) : (setHalt b s).cpu.cycT = s.cpu.cycT := rfl

/-! ### `setStop` -/

@[simp] theorem setStop_setup (b : Bool) : (setStop b s).setup = s.setup := rfl
@[simp] theorem setStop_mem (b : Bool) : (setStop b s).mem = s.mem := rfl
@[simp] theorem setStop_ctl (b : Bool) : (setStop b s).ctl = s.ctl := rfl
@[simp] theorem setStop_timer (b : Bool) : (setStop b s).timer = s.timer := rfl
@[simp] theorem setStop_ppu (b : Bool) : (setStop b s).ppu = s.ppu := rfl
@[simp] theorem setStop_hdma (b : Bool) : (setStop b s).hdma = s.hdma := rfl
@[simp] theorem setStop_sched (b : Bool) : (setStop b s).sched = s.sched := rfl
@[simp] theorem setStop_host (b : Bool) : (setStop b s).host = s.host := rfl
@[simp] theorem setStop_fault (b : Bool) : (setStop b s).fault = s.fault := rfl
@[simp] theorem setStop_cpu_a (b : Bool) : (setStop b s).cpu.a = s.cpu.a := rfl
@[simp] theorem setStop_cpu_flags (b : Bool) : (setStop b s).cpu.flags = s.cpu.flags := rfl
@[simp] theorem setStop_cpu_b (b : Bool) : (setStop b s).cpu.b = s.cpu.b := rfl
@[simp] theorem setStop_cpu_c (b : Bool) : (setStop b s).cpu.c = s.cpu.c := rfl
@[simp] theorem setStop_cpu_d (b : Bool) : (setStop b s).cpu.d = s.cpu.d := rfl
@[simp] theorem setStop_cpu_e (b : Bool) : (setStop b s).cpu.e = s.cpu.e := rfl
@[simp] theorem setStop_cpu_h (b : Bool) : (setStop b s).cpu.h = s.cpu.h := rfl
@[simp] theorem setStop_cpu_l (b : Bool) : (setStop b s).cpu.l = s.cpu.l := rfl
@[simp] theorem setStop_cpu_sp (b : Bool) : (setStop b s).cpu.sp = s.cpu.sp := rfl
@[simp] theorem setStop_cpu_pc (b : Bool) : (setStop b s).cpu.pc = s.cpu.pc := rfl
@[simp] theorem setStop_cpu_ime (b : Bool) : (setStop b s).cpu.ime = s.cpu.ime := rfl
@[simp] theorem setStop_cpu_imePending (b : Bool) : (setStop b s).cpu.imePending = s.cpu.imePending := rfl
@[simp] theorem setStop_cpu_halt (b : Bool) : (setStop b s).cpu.halt = s.cpu.halt := rfl
@[simp] theorem setStop_cpu_stop (b : Bool) : (setStop b s).cpu.stop = b := rfl
@[simp] theorem setStop_cpu_cycI (b : Bool) : (setStop b s).cpu.cycI = s.cpu.cycI := rfl
@[simp] theorem setStop_cpu_cycT (b : Bool) : (setStop b s).cpu.cycT = s.cpu.cycT := rfl

/-! ### `setIo` -/

@[simp] theorem setIo_setup (n : Nat) (v : Byte) : (setIo n v s).setup = s.setup := rfl
@[simp] theorem setIo_cpu (n : Nat) (v : Byte) : (setIo n v s).cpu = s.cpu := rfl
@[simp] theorem setIo_ctl (n : Nat) (v : Byte) : (setIo n v s).ctl = s.ctl := rfl
@[simp] theorem setIo_timer (n : Nat) (v : Byte) : (setIo n v s).timer = s.timer := rfl
@[simp] theorem setIo_ppu (n : Nat) (v : Byte) : (setIo n v s).ppu = s.ppu := rfl
@[simp] theorem setIo_hdma (n : Nat) (v : Byte) : (setIo n v s).hdma = s.hdma := rfl
@[simp] theorem setIo_sched (n : Nat) (v : Byte) : (setIo n v s).sched = s.sched := rfl
@[simp] theorem setIo_host (n : Nat) (v : Byte) : (setIo n v s).host = s.host := rfl
@[simp] theorem setIo_fault (n : Nat) (v : Byte) : (setIo n v s).fault = s.fault := rfl
@[simp] theorem setIo_mem_vram (n : Nat) (v : Byte) : (setIo n v s).mem.vram = s.mem.vram := rfl
@[simp] theorem setIo_mem_eram (n : Nat) (v : Byte) : (setIo n v s).mem.eram = s.mem.eram := rfl
@[simp] theorem setIo_mem_wram (n : Nat) (v : Byte) : (setIo n v s).mem.wram = s.mem.wram := rfl
@[simp] theorem setIo_mem_oam (n : Nat) (v : Byte) : (setIo n v s).mem.oam = s.mem.oam := rfl
@[simp] theorem setIo_mem_io (n : Nat) (v : Byte) : (setIo n v s).mem.io = Memory.put s.mem.io n v := rfl
@[simp] theorem setIo_mem_hram (n : Nat) (v : Byte) : (setIo n v s).mem.hram = s.mem.hram := rfl
@[simp] theorem setIo_mem_ie (n : Nat) (v : Byte) : (setIo n v s).mem.ie = s.mem.ie := rfl
@[simp] theorem setIo_mem_bgpal (n : Nat) (v : Byte) : (setIo n v s).mem.bgpal = s.mem.bgpal := rfl
@[simp] theorem setIo_mem_objpal (n : Nat) (v : Byte) : (setIo n v s).mem.objpal = s.mem.objpal := rfl

/-! ### `setVram` -/

@[simp] theorem setVram_setup (n : Nat) (v : Byte) : (setVram n v s).setup = s.setup := rfl
@[simp] theorem setVram_cpu (n : Nat) (v : Byte) : (setVram n v s).cpu = s.cpu := rfl
@[simp] theorem setVram_ctl (n : Nat) (v : Byte) : (setVram n v s).ctl = s.ctl := rfl
@[simp] theorem setVram_timer (n : Nat) (v : Byte) : (setVram n v s).timer = s.timer := rfl
@[simp] theorem setVram_ppu (n : Nat) (v : Byte) : (setVram n v s).ppu = s.ppu := rfl
@[simp] theorem setVram_hdma (n : Nat) (v : Byte) : (setVram n v s).hdma = s.hdma := rfl
@[simp] theorem setVram_sched (n : Nat) (v : Byte) : (setVram n v s).sched = s.sched := rfl
@[simp] theorem setVram_host (n : Nat) (v : Byte) : (setVram n v s).host = s.host := rfl
@[simp] theorem setVram_fault (n : Nat) (v : Byte) : (setVram n v s).fault = s.fault := rfl
@[simp] theorem setVram_mem_vram (n : Nat) (v : Byte) : (setVram n v s).mem.vram = Memory.put s.mem.vram n v := rfl
@[simp] theorem setVram_mem_eram (n : Nat) (v : Byte) : (setVram n v s).mem.eram = s.mem.eram := rfl
@[simp] theorem setVram_mem_wram (n : Nat) (v : Byte) : (setVram n v s).mem.wram = s.mem.wram := rfl
@[simp] theorem setVram_mem_oam (n : Nat) (v : Byte) : (setVram n v s).mem.oam = s.mem.oam := rfl
@[simp] theorem setVram_mem_io (n : Nat) (v : Byte) : (setVram n v s).mem.io = s.mem.io := rfl
@[simp] theorem setVram_mem_hram (n : Nat) (v : Byte) : (setVram n v s).mem.hram = s.mem.hram := rfl
@[simp] theorem setVram_mem_ie (n : Nat) (v : Byte) : (setVram n v s).mem.ie = s.mem.ie := rfl
@[simp] theorem setVram_mem_bgpal (n : Nat) (v : Byte) : (setVram n v s).mem.bgpal = s.mem.bgpal := rfl
@[simp] theorem setVram_mem_objpal (n : Nat) (v : Byte) : (setVram n v s).mem.objpal = s.mem.objpal := rfl

/-! ### `setWram` -/

@[simp] theorem setWram_setup (n : Nat) (v : Byte) : (setWram n v s).setup = s.setup := rfl
@[simp] theorem setWram_cpu (n : Nat) (v : Byte) : (setWram n v s).cpu = s.cpu := rfl
@[simp] theorem setWram_ctl (n : Nat) (v : Byte) : (setWram n v s).ctl = s.ctl := rfl
@[simp] theorem setWram_timer (n : Nat) (v : Byte) : (setWram n v s).timer = s.timer := rfl
@[simp] theorem setWram_ppu (n : Nat) (v : Byte) : (setWram n v s).ppu = s.ppu := rfl
@[simp] theorem setWram_hdma (n : Nat) (v : Byte) : (setWram n v s).hdma = s.hdma := rfl
@[simp] theorem setWram_sched (n : Nat) (v : Byte) : (setWram n v s).sched = s.sched := rfl
@[simp] theorem setWram_host (n : Nat) (v : Byte) : (setWram n v s).host = s.host := rfl
@[simp] theorem setWram_fault (n : Nat) (v : Byte) : (setWram n v s).fault = s.fault := rfl
@[simp] theorem setWram_mem_vram (n : Nat) (v : Byte) : (setWram n v s).mem.vram = s.mem.vram := rfl
@[simp] theorem setWram_mem_eram (n : Nat) (v : Byte) : (setWram n v s).mem.eram = s.mem.eram := rfl
@[simp] theorem setWram_mem_wram (n : Nat) (v : Byte) : (setWram n v s).mem.wram = Memory.put s.mem.wram n v := rfl
@[simp] theorem setWram_mem_oam (n : Nat) (v : Byte) : (setWram n v s).mem.oam = s.mem.oam := rfl
@[simp] theorem setWram_mem_io (n : Nat) (v : Byte) : (setWram n v s).mem.io = s.mem.io := rfl
@[simp] theorem setWram_mem_hram (n : Nat) (v : Byte) : (setWram n v s).mem.hram = s.mem.hram := rfl
@[simp] theorem setWram_mem_ie (n : Nat) (v : Byte) : (setWram n v s).mem.ie = s.mem.ie := rfl
@[simp] theorem setWram_mem_bgpal (n : Nat) (v : Byte) : (setWram n v s).mem.bgpal = s.mem.bgpal := rfl
@[simp] theorem setWram_mem_objpal (n : Nat) (v : Byte) : (setWram n v s).mem.objpal = s.mem.objpal := rfl

/-! ### `setOam` -/

@[simp] theorem setOam_setup (n : Nat) (v : Byte) : (setOam n v s).setup = s.setup := rfl
@[simp] theorem setOam_cpu (n : Nat) (v : Byte) : (setOam n v s).cpu = s.cpu := rfl
@[simp] theorem setOam_ctl (n : Nat) (v : Byte) : (setOam n v s).ctl = s.ctl := rfl
@[simp] theorem setOam_timer (n : Nat) (v : Byte) : (setOam n v s).timer = s.timer := rfl
@[simp] theorem setOam_ppu (n : Nat) (v : Byte) : (setOam n v s).ppu = s.ppu := rfl
@[simp] theorem setOam_hdma (n : Nat) (v : Byte) : (setOam n v s).hdma = s.hdma := rfl
@[simp] theorem setOam_sched (n : Nat) (v : Byte) : (setOam n v s).sched = s.sched := rfl
@[simp] theorem setOam_host (n : Nat) (v : Byte) : (setOam n v s).host = s.host := rfl
@[simp] theorem setOam_fault (n : Nat) (v : Byte) : (setOam n v s).fault = s.fault := rfl
@[simp] theorem setOam_mem_vram (n : Nat) (v : Byte) : (setOam n v s).mem.vram = s.mem.vram := rfl
@[simp] theorem setOam_mem_eram (n : Nat) (v : Byte) : (setOam n v s).mem.eram = s.mem.eram := rfl
@[simp] theorem setOam_mem_wram (n : Nat) (v : Byte) : (setOam n v s).mem.wram = s.mem.wram := rfl
@[simp] theorem setOam_mem_oam (n : Nat) (v : Byte) : (setOam n v s).mem.oam = Memory.put s.mem.oam n v := rfl
@[simp] theorem setOam_mem_io (n : Nat) (v : Byte) : (setOam n v s).mem.io = s.mem.io := rfl
@[simp] theorem setOam_mem_hram (n : Nat) (v : Byte) : (setOam n v s).mem.hram = s.mem.hram := rfl
@[simp] theorem setOam_mem_ie (n : Nat) (v : Byte) : (setOam n v s).mem.ie = s.mem.ie := rfl
@[simp] theorem setOam_mem_bgpal (n : Nat) (v : Byte) : (setOam n v s).mem.bgpal = s.mem.bgpal := rfl
@[simp] theorem setOam_mem_objpal (n : Nat) (v : Byte) : (setOam n v s).mem.objpal = s.mem.objpal := rfl

/-! ### `setHram` -/

@[simp] theorem setHram_setup (n : Nat) (v : Byte) : (setHram n v s).setup = s.setup := rfl
@[simp] theorem setHram_cpu (n : Nat) (v : Byte) : (setHram n v s).cpu = s.cpu := rfl
@[simp] theorem setHram_ctl (n : Nat) (v : Byte) : (setHram n v s).ctl = s.ctl := rfl
@[simp] theorem setHram_timer (n : Nat) (v : Byte) : (setHram n v s).timer = s.timer := rfl
@[simp] theorem setHram_ppu (n : Nat) (v : Byte) : (setHram n v s).ppu = s.ppu := rfl
@[simp] theorem setHram_hdma (n : Nat) (v : Byte) : (setHram n v s).hdma = s.hdma := rfl
@[simp] theorem setHram_sched (n : Nat) (v : Byte) : (setHram n v s).sched = s.sched := rfl
@[simp] theorem setHram_host (n : Nat) (v : Byte) : (setHram n v s).host = s.host := rfl
@[simp] theorem setHram_fault (n : Nat) (v : Byte) : (setHram n v s).fault = s.fault := rfl
@[simp] theorem setHram_mem_vram (n : Nat) (v : Byte) : (setHram n v s).mem.vram = s.mem.vram := rfl
@[simp] theorem setHram_mem_eram (n : Nat) (v : Byte) : (setHram n v s).mem.eram = s.mem.eram := rfl
@[simp] theorem setHram_mem_wram (n : Nat) (v : Byte) : (setHram n v s).mem.wram = s.mem.wram := rfl
@[simp] theorem setHram_mem_oam (n : Nat) (v : Byte) : (setHram n v s).mem.oam = s.mem.oam := rfl
@[simp] theorem setHram_mem_io (n : Nat) (v : Byte) : (setHram n v s).mem.io = s.mem.io := rfl
@[simp] theorem setHram_mem_hram (n : Nat) (v : Byte) : (setHram n v s).mem.hram = Memory.put s.mem.hram n v := rfl
@[simp] theorem setHram_mem_ie (n : Nat) (v : Byte) : (setHram n v s).mem.ie = s.mem.ie := rfl
@[simp] theorem setHram_mem_bgpal (n : Nat) (v : Byte) : (setHram n v s).mem.bgpal = s.mem.bgpal := rfl
@[simp] theorem setHram_mem_objpal (n : Nat) (v : Byte) : (setHram n v s).mem.objpal = s.mem.objpal := rfl

/-! ### `setIe` -/

@[simp] theorem setIe_setup (v : Byte) : (setIe v s).setup = s.setup := rfl
@[simp] theorem setIe_cpu (v : Byte) : (setIe v s).cpu = s.cpu := rfl
@[simp] theorem setIe_ctl (v : Byte) : (setIe v s).ctl = s.ctl := rfl
@[simp] theorem setIe_timer (v : Byte) : (setIe v s).timer = s.timer := rfl
@[simp] theorem setIe_ppu (v : Byte) : (setIe v s).ppu = s.ppu := rfl
@[simp] theorem setIe_hdma (v : Byte) : (setIe v s).hdma = s.hdma := rfl
@[simp] theorem setIe_sched (v : Byte) : (setIe v s).sched = s.sched := rfl
@[simp] theorem setIe_host (v : Byte) : (setIe v s).host = s.host := rfl
@[simp] theorem setIe_fault (v : Byte) : (setIe v s).fault = s.fault := rfl
@[simp] theorem setIe_mem_vram (v : Byte) : (setIe v s).mem.vram = s.mem.vram := rfl
@[simp] theorem setIe_mem_eram (v : Byte) : (setIe v s).mem.eram = s.mem.eram := rfl
@[simp] theorem setIe_mem_wram (v : Byte) : (setIe v s).mem.wram = s.mem.wram := rfl
@[simp] theorem setIe_mem_oam (v : Byte) : (setIe v s).mem.oam = s.mem.oam := rfl
@[simp] theorem setIe_mem_io (v : Byte) : (setIe v s).mem.io = s.mem.io := rfl
@[simp] theorem setIe_mem_hram (v : Byte) : (setIe v s).mem.hram = s.mem.hram := rfl
@[simp] theorem setIe_mem_ie (v : Byte) : (setIe v s).mem.ie = v := rfl
@[simp] theorem setIe_mem_bgpal (v : Byte) : (setIe v s).mem.bgpal = s.mem.bgpal := rfl
@[simp] theorem setIe_mem_objpal (v : Byte) : (setIe v s).mem.objpal = s.mem.objpal := rfl

/-! ### `setPpuCyc` -/

@[simp] theorem setPpuCyc_setup (n : Nat) : (setPpuCyc n s).setup = s.setup := rfl
@[simp] theorem setPpuCyc_cpu (n : Nat) : (setPpuCyc n s).cpu = s.cpu := rfl
@[simp] theorem setPpuCyc_mem (n : Nat) : (setPpuCyc n s).mem = s.mem := rfl
@[simp] theorem setPpuCyc_ctl (n : Nat) : (setPpuCyc n s).ctl = s.ctl := rfl
@[simp] theorem setPpuCyc_timer (n : Nat) : (setPpuCyc n s).timer = s.timer := rfl
@[simp] theorem setPpuCyc_hdma (n : Nat) : (setPpuCyc n s).hdma = s.hdma := rfl
@[simp] theorem setPpuCyc_sched (n : Nat) : (setPpuCyc n s).sched = s.sched := rfl
@[simp] theorem setPpuCyc_host (n : Nat) : (setPpuCyc n s).host = s.host := rfl
@[simp] theorem setPpuCyc_fault (n : Nat) : (setPpuCyc n s).fault = s.fault := rfl
@[simp] theorem setPpuCyc_ppu_cyc (n : Nat) : (setPpuCyc n s).ppu.cyc = n := rfl
@[simp] theorem setPpuCyc_ppu_linebg (n : Nat) : (setPpuCyc n s).ppu.linebg = s.ppu.linebg := rfl
@[simp] theorem setPpuCyc_ppu_frame (n : Nat) : (setPpuCyc n s).ppu.frame = s.ppu.frame := rfl

/-! ### `setHdmaActive` -/

@[simp] theorem setHdmaActive_setup (b : Bool) : (setHdmaActive b s).setup = s.setup := rfl
@[simp] theorem setHdmaActive_cpu (b : Bool) : (setHdmaActive b s).cpu = s.cpu := rfl
@[simp] theorem setHdmaActive_mem (b : Bool) : (setHdmaActive b s).mem = s.mem := rfl
@[simp] theorem setHdmaActive_ctl (b : Bool) : (setHdmaActive b s).ctl = s.ctl := rfl
@[simp] theorem setHdmaActive_timer (b : Bool) : (setHdmaActive b s).timer = s.timer := rfl
@[simp] theorem setHdmaActive_ppu (b : Bool) : (setHdmaActive b s).ppu = s.ppu := rfl
@[simp] theorem setHdmaActive_sched (b : Bool) : (setHdmaActive b s).sched = s.sched := rfl
@[simp] theorem setHdmaActive_host (b : Bool) : (setHdmaActive b s).host = s.host := rfl
@[simp] theorem setHdmaActive_fault (b : Bool) : (setHdmaActive b s).fault = s.fault := rfl
@[simp] theorem setHdmaActive_hdma_src (b : Bool) : (setHdmaActive b s).hdma.src = s.hdma.src := rfl
@[simp] theorem setHdmaActive_hdma_dst (b : Bool) : (setHdmaActive b s).hdma.dst = s.hdma.dst := rfl
@[simp] theorem setHdmaActive_hdma_len (b : Bool) : (setHdmaActive b s).hdma.len = s.hdma.len := rfl
@[simp] theorem setHdmaActive_hdma_active (b : Bool) : (setHdmaActive b s).hdma.active = b := rfl

/-! ### `setDivAcc` -/

@[simp] theorem setDivAcc_setup (n : Nat) : (setDivAcc n s).setup = s.setup := rfl
@[simp] theorem setDivAcc_cpu (n : Nat) : (setDivAcc n s).cpu = s.cpu := rfl
@[simp] theorem setDivAcc_mem (n : Nat) : (setDivAcc n s).mem = s.mem := rfl
@[simp] theorem setDivAcc_ctl (n : Nat) : (setDivAcc n s).ctl = s.ctl := rfl
@[simp] theorem setDivAcc_ppu (n : Nat) : (setDivAcc n s).ppu = s.ppu := rfl
@[simp] theorem setDivAcc_hdma (n : Nat) : (setDivAcc n s).hdma = s.hdma := rfl
@[simp] theorem setDivAcc_sched (n : Nat) : (setDivAcc n s).sched = s.sched := rfl
@[simp] theorem setDivAcc_host (n : Nat) : (setDivAcc n s).host = s.host := rfl
@[simp] theorem setDivAcc_fault (n : Nat) : (setDivAcc n s).fault = s.fault := rfl
@[simp] theorem setDivAcc_timer_divAcc (n : Nat) : (setDivAcc n s).timer.divAcc = n := rfl
@[simp] theorem setDivAcc_timer_timaAcc (n : Nat) : (setDivAcc n s).timer.timaAcc = s.timer.timaAcc := rfl
@[simp] theorem setDivAcc_timer_divReset (n : Nat) : (setDivAcc n s).timer.divReset = s.timer.divReset := rfl
@[simp] theorem setDivAcc_timer_timaSel (n : Nat) : (setDivAcc n s).timer.timaSel = s.timer.timaSel := rfl

/-! ### `setDivReset` -/

@[simp] theorem setDivReset_setup (b : Bool) : (setDivReset b s).setup = s.setup := rfl
@[simp] theorem setDivReset_cpu (b : Bool) : (setDivReset b s).cpu = s.cpu := rfl
@[simp] theorem setDivReset_mem (b : Bool) : (setDivReset b s).mem = s.mem := rfl
@[simp] theorem setDivReset_ctl (b : Bool) : (setDivReset b s).ctl = s.ctl := rfl
@[simp] theorem setDivReset_ppu (b : Bool) : (setDivReset b s).ppu = s.ppu := rfl
@[simp] theorem setDivReset_hdma (b : Bool) : (setDivReset b s).hdma = s.hdma := rfl
@[simp] theorem setDivReset_sched (b : Bool) : (setDivReset b s).sched = s.sched := rfl
@[simp] theorem setDivReset_host (b : Bool) : (setDivReset b s).host = s.host := rfl
@[simp] theorem setDivReset_fault (b : Bool) : (setDivReset b s).fault = s.fault := rfl
@[simp] theorem setDivReset_timer_divAcc (b : Bool) : (setDivReset b s).timer.divAcc = s.timer.divAcc := rfl
@[simp] theorem setDivReset_timer_timaAcc (b : Bool) : (setDivReset b s).timer.timaAcc = s.timer.timaAcc := rfl
@[simp] theorem setDivReset_timer_divReset (b : Bool) : (setDivReset b s).timer.divReset = b := rfl
@[simp] theorem setDivReset_timer_timaSel (b : Bool) : (setDivReset b s).timer.timaSel = s.timer.timaSel := rfl

/-! ### `setTimaAcc` -/

@[simp] theorem setTimaAcc_setup (n : Nat) : (setTimaAcc n s).setup = s.setup := rfl
@[simp] theorem setTimaAcc_cpu (n : Nat) : (setTimaAcc n s).cpu = s.cpu := rfl
@[simp] theorem setTimaAcc_mem (n : Nat) : (setTimaAcc n s).mem = s.mem := rfl
@[simp] theorem setTimaAcc_ctl (n : Nat) : (setTimaAcc n s).ctl = s.ctl := rfl
@[simp] theorem setTimaAcc_ppu (n : Nat) : (setTimaAcc n s).ppu = s.ppu := rfl
@[simp] theorem setTimaAcc_hdma (n : Nat) : (setTimaAcc n s).hdma = s.hdma := rfl
@[simp] theorem setTimaAcc_sched (n : Nat) : (setTimaAcc n s).sched = s.sched := rfl
@[simp] theorem setTimaAcc_host (n : Nat) : (setTimaAcc n s).host = s.host := rfl
@[simp] theorem setTimaAcc_fault (n : Nat) : (setTimaAcc n s).fault = s.fault := rfl
@[simp] theorem setTimaAcc_timer_divAcc (n : Nat) : (setTimaAcc n s).timer.divAcc = s.timer.divAcc := rfl
@[simp] theorem setTimaAcc_timer_timaAcc (n : Nat) : (setTimaAcc n s).timer.timaAcc = n := rfl
@[simp] theorem setTimaAcc_timer_divReset (n : Nat) : (setTimaAcc n s).timer.divReset = s.timer.divReset := rfl
@[simp] theorem setTimaAcc_timer_timaSel (n : Nat) : (setTimaAcc n s).timer.timaSel = s.timer.timaSel := rfl

/-! ### `setTimaSel` -/

@[simp] theorem setTimaSel_setup (sel : BitVec 2) : (setTimaSel sel s).setup = s.setup := rfl
@[simp] theorem setTimaSel_cpu (sel : BitVec 2) : (setTimaSel sel s).cpu = s.cpu := rfl
@[simp] theorem setTimaSel_mem (sel : BitVec 2) : (setTimaSel sel s).mem = s.mem := rfl
@[simp] theorem setTimaSel_ctl (sel : BitVec 2) : (setTimaSel sel s).ctl = s.ctl := rfl
@[simp] theorem setTimaSel_ppu (sel : BitVec 2) : (setTimaSel sel s).ppu = s.ppu := rfl
@[simp] theorem setTimaSel_hdma (sel : BitVec 2) : (setTimaSel sel s).hdma = s.hdma := rfl
@[simp] theorem setTimaSel_sched (sel : BitVec 2) : (setTimaSel sel s).sched = s.sched := rfl
@[simp] theorem setTimaSel_host (sel : BitVec 2) : (setTimaSel sel s).host = s.host := rfl
@[simp] theorem setTimaSel_fault (sel : BitVec 2) : (setTimaSel sel s).fault = s.fault := rfl
@[simp] theorem setTimaSel_timer_divAcc (sel : BitVec 2) : (setTimaSel sel s).timer.divAcc = s.timer.divAcc := rfl
@[simp] theorem setTimaSel_timer_timaAcc (sel : BitVec 2) : (setTimaSel sel s).timer.timaAcc = s.timer.timaAcc := rfl
@[simp] theorem setTimaSel_timer_divReset (sel : BitVec 2) : (setTimaSel sel s).timer.divReset = s.timer.divReset := rfl
@[simp] theorem setTimaSel_timer_timaSel (sel : BitVec 2) : (setTimaSel sel s).timer.timaSel = sel := rfl

/-! ### `setPollAcc` -/

@[simp] theorem setPollAcc_setup (n : Nat) : (setPollAcc n s).setup = s.setup := rfl
@[simp] theorem setPollAcc_cpu (n : Nat) : (setPollAcc n s).cpu = s.cpu := rfl
@[simp] theorem setPollAcc_mem (n : Nat) : (setPollAcc n s).mem = s.mem := rfl
@[simp] theorem setPollAcc_ctl (n : Nat) : (setPollAcc n s).ctl = s.ctl := rfl
@[simp] theorem setPollAcc_timer (n : Nat) : (setPollAcc n s).timer = s.timer := rfl
@[simp] theorem setPollAcc_ppu (n : Nat) : (setPollAcc n s).ppu = s.ppu := rfl
@[simp] theorem setPollAcc_hdma (n : Nat) : (setPollAcc n s).hdma = s.hdma := rfl
@[simp] theorem setPollAcc_host (n : Nat) : (setPollAcc n s).host = s.host := rfl
@[simp] theorem setPollAcc_fault (n : Nat) : (setPollAcc n s).fault = s.fault := rfl
@[simp] theorem setPollAcc_sched_bootWatch (n : Nat) : (setPollAcc n s).sched.bootWatch = s.sched.bootWatch := rfl
@[simp] theorem setPollAcc_sched_pollAcc (n : Nat) : (setPollAcc n s).sched.pollAcc = n := rfl

/-! ### `setEram`, which writes two groups -/

@[simp] theorem setEram_setup (n : Nat) (v : Byte) : (setEram n v s).setup = s.setup := rfl
@[simp] theorem setEram_cpu (n : Nat) (v : Byte) : (setEram n v s).cpu = s.cpu := rfl
@[simp] theorem setEram_timer (n : Nat) (v : Byte) : (setEram n v s).timer = s.timer := rfl
@[simp] theorem setEram_ppu (n : Nat) (v : Byte) : (setEram n v s).ppu = s.ppu := rfl
@[simp] theorem setEram_hdma (n : Nat) (v : Byte) : (setEram n v s).hdma = s.hdma := rfl
@[simp] theorem setEram_sched (n : Nat) (v : Byte) : (setEram n v s).sched = s.sched := rfl
@[simp] theorem setEram_host (n : Nat) (v : Byte) : (setEram n v s).host = s.host := rfl
@[simp] theorem setEram_fault (n : Nat) (v : Byte) : (setEram n v s).fault = s.fault := rfl
@[simp] theorem setEram_mem_vram (n : Nat) (v : Byte) : (setEram n v s).mem.vram = s.mem.vram := rfl
@[simp] theorem setEram_mem_eram (n : Nat) (v : Byte) : (setEram n v s).mem.eram = Memory.put s.mem.eram n v := rfl
@[simp] theorem setEram_mem_wram (n : Nat) (v : Byte) : (setEram n v s).mem.wram = s.mem.wram := rfl
@[simp] theorem setEram_mem_oam (n : Nat) (v : Byte) : (setEram n v s).mem.oam = s.mem.oam := rfl
@[simp] theorem setEram_mem_io (n : Nat) (v : Byte) : (setEram n v s).mem.io = s.mem.io := rfl
@[simp] theorem setEram_mem_hram (n : Nat) (v : Byte) : (setEram n v s).mem.hram = s.mem.hram := rfl
@[simp] theorem setEram_mem_ie (n : Nat) (v : Byte) : (setEram n v s).mem.ie = s.mem.ie := rfl
@[simp] theorem setEram_mem_bgpal (n : Nat) (v : Byte) : (setEram n v s).mem.bgpal = s.mem.bgpal := rfl
@[simp] theorem setEram_mem_objpal (n : Nat) (v : Byte) : (setEram n v s).mem.objpal = s.mem.objpal := rfl
@[simp] theorem setEram_ctl_bankLo (n : Nat) (v : Byte) : (setEram n v s).ctl.bankLo = s.ctl.bankLo := rfl
@[simp] theorem setEram_ctl_bankHi (n : Nat) (v : Byte) : (setEram n v s).ctl.bankHi = s.ctl.bankHi := rfl
@[simp] theorem setEram_ctl_bankMode (n : Nat) (v : Byte) : (setEram n v s).ctl.bankMode = s.ctl.bankMode := rfl
@[simp] theorem setEram_ctl_eramEnabled (n : Nat) (v : Byte) :
    (setEram n v s).ctl.eramEnabled = s.ctl.eramEnabled := rfl
@[simp] theorem setEram_ctl_eramDirty (n : Nat) (v : Byte) : (setEram n v s).ctl.eramDirty = true := rfl
@[simp] theorem setEram_ctl_bootActive (n : Nat) (v : Byte) : (setEram n v s).ctl.bootActive = s.ctl.bootActive := rfl
@[simp] theorem setEram_ctl_joySelect (n : Nat) (v : Byte) : (setEram n v s).ctl.joySelect = s.ctl.joySelect := rfl

/-! ### `latch` -/

@[simp] theorem latch_setup (k : FatalKind) (i : FatalInfo) : (latch k i s).setup = s.setup := rfl
@[simp] theorem latch_cpu (k : FatalKind) (i : FatalInfo) : (latch k i s).cpu = s.cpu := rfl
@[simp] theorem latch_mem (k : FatalKind) (i : FatalInfo) : (latch k i s).mem = s.mem := rfl
@[simp] theorem latch_ctl (k : FatalKind) (i : FatalInfo) : (latch k i s).ctl = s.ctl := rfl
@[simp] theorem latch_timer (k : FatalKind) (i : FatalInfo) : (latch k i s).timer = s.timer := rfl
@[simp] theorem latch_ppu (k : FatalKind) (i : FatalInfo) : (latch k i s).ppu = s.ppu := rfl
@[simp] theorem latch_hdma (k : FatalKind) (i : FatalInfo) : (latch k i s).hdma = s.hdma := rfl
@[simp] theorem latch_sched (k : FatalKind) (i : FatalInfo) : (latch k i s).sched = s.sched := rfl
@[simp] theorem latch_host (k : FatalKind) (i : FatalInfo) : (latch k i s).host = s.host := rfl
@[simp] theorem latch_fault (k : FatalKind) (i : FatalInfo) : (latch k i s).fault = some ⟨k, i⟩ := rfl

/-! ### Registers -/

@[simp] theorem setReg8_setup (r : Reg8) (v : Byte) : (setReg8 r v s).setup = s.setup := by cases r <;> rfl
@[simp] theorem setReg16_setup (r : Reg16) (v : Word) : (setReg16 r v s).setup = s.setup := by cases r <;> rfl
@[simp] theorem setReg8_mem (r : Reg8) (v : Byte) : (setReg8 r v s).mem = s.mem := by cases r <;> rfl
@[simp] theorem setReg16_mem (r : Reg16) (v : Word) : (setReg16 r v s).mem = s.mem := by cases r <;> rfl
@[simp] theorem setReg8_ctl (r : Reg8) (v : Byte) : (setReg8 r v s).ctl = s.ctl := by cases r <;> rfl
@[simp] theorem setReg16_ctl (r : Reg16) (v : Word) : (setReg16 r v s).ctl = s.ctl := by cases r <;> rfl
@[simp] theorem setReg8_timer (r : Reg8) (v : Byte) : (setReg8 r v s).timer = s.timer := by cases r <;> rfl
@[simp] theorem setReg16_timer (r : Reg16) (v : Word) : (setReg16 r v s).timer = s.timer := by cases r <;> rfl
@[simp] theorem setReg8_ppu (r : Reg8) (v : Byte) : (setReg8 r v s).ppu = s.ppu := by cases r <;> rfl
@[simp] theorem setReg16_ppu (r : Reg16) (v : Word) : (setReg16 r v s).ppu = s.ppu := by cases r <;> rfl
@[simp] theorem setReg8_hdma (r : Reg8) (v : Byte) : (setReg8 r v s).hdma = s.hdma := by cases r <;> rfl
@[simp] theorem setReg16_hdma (r : Reg16) (v : Word) : (setReg16 r v s).hdma = s.hdma := by cases r <;> rfl
@[simp] theorem setReg8_sched (r : Reg8) (v : Byte) : (setReg8 r v s).sched = s.sched := by cases r <;> rfl
@[simp] theorem setReg16_sched (r : Reg16) (v : Word) : (setReg16 r v s).sched = s.sched := by cases r <;> rfl
@[simp] theorem setReg8_host (r : Reg8) (v : Byte) : (setReg8 r v s).host = s.host := by cases r <;> rfl
@[simp] theorem setReg16_host (r : Reg16) (v : Word) : (setReg16 r v s).host = s.host := by cases r <;> rfl
@[simp] theorem setReg8_fault (r : Reg8) (v : Byte) : (setReg8 r v s).fault = s.fault := by cases r <;> rfl
@[simp] theorem setReg16_fault (r : Reg16) (v : Word) : (setReg16 r v s).fault = s.fault := by cases r <;> rfl
@[simp] theorem setReg8_cpu_pc (r : Reg8) (v : Byte) : (setReg8 r v s).cpu.pc = s.cpu.pc := by cases r <;> rfl
@[simp] theorem setReg16_cpu_pc (r : Reg16) (v : Word) : (setReg16 r v s).cpu.pc = s.cpu.pc := by cases r <;> rfl
@[simp] theorem setReg8_cpu_ime (r : Reg8) (v : Byte) : (setReg8 r v s).cpu.ime = s.cpu.ime := by cases r <;> rfl
@[simp] theorem setReg16_cpu_ime (r : Reg16) (v : Word) : (setReg16 r v s).cpu.ime = s.cpu.ime := by cases r <;> rfl
@[simp] theorem setReg8_cpu_imePending (r : Reg8) (v : Byte) :
    (setReg8 r v s).cpu.imePending = s.cpu.imePending := by cases r <;> rfl
@[simp] theorem setReg16_cpu_imePending (r : Reg16) (v : Word) :
    (setReg16 r v s).cpu.imePending = s.cpu.imePending := by cases r <;> rfl
@[simp] theorem setReg8_cpu_halt (r : Reg8) (v : Byte) : (setReg8 r v s).cpu.halt = s.cpu.halt := by cases r <;> rfl
@[simp] theorem setReg16_cpu_halt (r : Reg16) (v : Word) : (setReg16 r v s).cpu.halt = s.cpu.halt := by cases r <;> rfl
@[simp] theorem setReg8_cpu_stop (r : Reg8) (v : Byte) : (setReg8 r v s).cpu.stop = s.cpu.stop := by cases r <;> rfl
@[simp] theorem setReg16_cpu_stop (r : Reg16) (v : Word) : (setReg16 r v s).cpu.stop = s.cpu.stop := by cases r <;> rfl
@[simp] theorem setReg8_cpu_cycI (r : Reg8) (v : Byte) : (setReg8 r v s).cpu.cycI = s.cpu.cycI := by cases r <;> rfl
@[simp] theorem setReg16_cpu_cycI (r : Reg16) (v : Word) : (setReg16 r v s).cpu.cycI = s.cpu.cycI := by cases r <;> rfl
@[simp] theorem setReg8_cpu_cycT (r : Reg8) (v : Byte) : (setReg8 r v s).cpu.cycT = s.cpu.cycT := by cases r <;> rfl
@[simp] theorem setReg16_cpu_cycT (r : Reg16) (v : Word) : (setReg16 r v s).cpu.cycT = s.cpu.cycT := by cases r <;> rfl
@[simp] theorem setReg8_cpu_sp (r : Reg8) (v : Byte) : (setReg8 r v s).cpu.sp = s.cpu.sp := by cases r <;> rfl
@[simp] theorem setReg16_sp_cpu_sp (v : Word) : (setReg16 .sp v s).cpu.sp = v := rfl

/-! ### Words and their bytes -/

/-- A word of two bytes as a number (R13). -/
theorem append_toNat (a b : Byte) : (a ++ b : Word).toNat = a.toNat * 256 + b.toNat := by
  rw [BitVec.toNat_append, ← Nat.shiftLeft_add_eq_or_of_lt b.isLt, Nat.shiftLeft_eq]

@[simp] theorem hiByte_toNat (v : Word) : (hiByte v).toNat = v.toNat / 256 := by
  simp only [hiByte, BitVec.extractLsb'_toNat, Nat.shiftRight_eq_div_pow]
  omega

@[simp] theorem loByte_toNat (v : Word) : (loByte v).toNat = v.toNat % 256 := by
  simp only [loByte, BitVec.extractLsb'_toNat, Nat.shiftRight_eq_div_pow]
  omega

@[simp] theorem hiByte_append_loByte (v : Word) : hiByte v ++ loByte v = v := by
  apply BitVec.eq_of_toNat_eq
  rw [append_toNat, hiByte_toNat, loByte_toNat]
  omega

@[simp] theorem hiByte_append (a b : Byte) : hiByte (a ++ b) = a := by
  apply BitVec.eq_of_toNat_eq
  rw [hiByte_toNat, append_toNat]
  omega

@[simp] theorem loByte_append (a b : Byte) : loByte (a ++ b) = b := by
  apply BitVec.eq_of_toNat_eq
  rw [loByte_toNat, append_toNat]
  omega

/-- Flags written as a byte and read back (R22). -/
@[simp] theorem flagsOfByte_toByte (f : Flags) : flagsOfByte f.toByte = f := by
  obtain ⟨z, n, h, c⟩ := f
  cases z <;> cases n <;> cases h <;> cases c <;> rfl

/-- A byte written to `F` reads back with its low four bits zero (R22). -/
theorem toByte_flagsOfByte (v : Byte) : (flagsOfByte v).toByte = v &&& 0xF0 := by
  revert v
  decide

/-- A pair reads back as what was written to it (R21, R23); `AF` is the next lemma's. -/
theorem reg16_setReg16_self (rr : Reg16) (v : Word) (h : rr ≠ .af) : reg16 (setReg16 rr v s) rr = v := by
  cases rr with
  | af => exact absurd rfl h
  | sp => rfl
  | _ => exact hiByte_append_loByte v

/-- `AF` reads back as what was written to it without the low four bits (R21, R22). -/
theorem reg16_setReg16_af (v : Word) : reg16 (setReg16 .af v s) .af = hiByte v ++ (loByte v &&& 0xF0) := by
  simp only [reg16, setReg16, toByte_flagsOfByte]

/-- A register other than `F` reads back as what was written to it (R20). -/
theorem reg8_setReg8_self (r : Reg8) (v : Byte) (h : r ≠ .f) : reg8 (setReg8 r v s) r = v := by
  cases r <;> first | exact absurd rfl h | rfl

/-- A write of one register leaves every other one alone (R20). -/
theorem reg8_setReg8_other (r r' : Reg8) (v : Byte) (h : r' ≠ r) : reg8 (setReg8 r v s) r' = reg8 s r' := by
  cases r <;> cases r' <;> first | rfl | exact absurd rfl h

end Sys2Proof.Machine
end

