-- ==== Sys2Proof/Laws/Bus.lean ====
section
/-! SUPPORT. What the operations of the Bus can do: one frame lemma and one lemma of cases for each. -/

namespace Sys2Proof.Machine

/-! ### I/O bytes -/

theorem io_setIo {s : State} (h : s.mem.io.wf = true) (n m : Nat) (v : Byte) :
    io (setIo n v s) m = if m = n then v else io s m := Memory.get_put h n m v

/-- A store in the I/O bytes changes nothing else. -/
theorem setIo_frame (n : Nat) (v : Byte) (s : State) :
    setIo n v s = { s with mem := { s.mem with io := (setIo n v s).mem.io } } := rfl

/-- `Request` changes the I/O bytes only. -/
theorem request_frame (i : Nat) (s : State) :
    request i s = { s with mem := { s.mem with io := (request i s).mem.io } } := rfl

/-- The coincidence check changes the I/O bytes only. -/
theorem coincidenceCheck_frame (s : State) :
    coincidenceCheck s = { s with mem := { s.mem with io := (coincidenceCheck s).mem.io } } := by
  unfold coincidenceCheck
  split
  · dsimp only
    split <;> rfl
  · rfl

/-- The I/O bytes stay canonical through the coincidence check. -/
theorem coincidenceCheck_io_wf {s : State} (h : s.mem.io.wf = true) : (coincidenceCheck s).mem.io.wf = true := by
  unfold coincidenceCheck
  split
  · dsimp only
    split
    · exact Memory.put_wf (Memory.put_wf h _ _) _ _
    · exact Memory.put_wf h _ _
  · exact Memory.put_wf h _ _

/-- The bank controller's writes change its own registers and nothing else (R87). -/
theorem bankWrite_frame (addr : Word) (v : Byte) (s : State) :
    bankWrite addr v s = { s with ctl := (bankWrite addr v s).ctl } := by
  unfold bankWrite
  dsimp only
  split
  · split <;> rfl
  · rfl
  · rfl
  · split <;> rfl

/-- The bank controller's writes keep the boot overlay, the joypad selection and the dirty flag (R87). -/
theorem bankWrite_ctl (addr : Word) (v : Byte) (s : State) :
    (bankWrite addr v s).ctl.bootActive = s.ctl.bootActive ∧ (bankWrite addr v s).ctl.joySelect = s.ctl.joySelect ∧
      (bankWrite addr v s).ctl.eramDirty = s.ctl.eramDirty := by
  unfold bankWrite
  dsimp only
  split
  · split <;> exact ⟨rfl, rfl, rfl⟩
  · exact ⟨rfl, rfl, rfl⟩
  · exact ⟨rfl, rfl, rfl⟩
  · split <;> exact ⟨rfl, rfl, rfl⟩

/-! ### The copies -/

/-- An OAM DMA changes object attribute memory only (R106). -/
theorem oamCopy_frame {src : Word} {n i : Nat} {s t : State} (h : oamCopy src n i s = .ok () t) :
    t = { s with mem := { s.mem with oam := t.mem.oam } } := by
  induction n generalizing i s with
  | zero =>
    injection h with _ h
    rw [← h]
  | succ n ih =>
    simp only [oamCopy] at h
    split at h
    · cases h
    · exact ih (s := setOam i _ s) h

theorem oamCopy_oam_wf {src : Word} {n i : Nat} {s t : State} (h : oamCopy src n i s = .ok () t)
    (hw : s.mem.oam.wf = true) : t.mem.oam.wf = true := by
  induction n generalizing i s with
  | zero =>
    injection h with _ h
    rwa [← h]
  | succ n ih =>
    simp only [oamCopy] at h
    split at h
    · cases h
    · exact ih (s := setOam i _ s) h (Memory.put_wf hw _ _)

/-- The bytes of a chunk change video RAM only (R451). -/
theorem chunkCopy_frame {n i : Nat} {s t : State} (h : chunkCopy n i s = .ok () t) :
    t = { s with mem := { s.mem with vram := t.mem.vram } } := by
  induction n generalizing i s with
  | zero =>
    injection h with _ h
    rw [← h]
  | succ n ih =>
    simp only [chunkCopy] at h
    split at h
    · cases h
    · exact ih (s := setVram _ _ s) h

/-- Where a chunk ends in the fatal condition, that address cannot be read and video RAM alone has changed (R451). -/
theorem chunkCopy_fatal {n i : Nat} {s t : State} {addr : Word} (h : chunkCopy n i s = .fatal addr t) :
    readByte t addr = none ∧ t = { s with mem := { s.mem with vram := t.mem.vram } } := by
  induction n generalizing i s with
  | zero => cases h
  | succ n ih =>
    simp only [chunkCopy] at h
    split at h
    · next hr =>
      cases h
      exact ⟨hr, rfl⟩
    · exact ih (s := setVram _ _ s) h

theorem chunkCopy_vram_wf {n i : Nat} {s t : State} (h : chunkCopy n i s = .ok () t)
    (hw : s.mem.vram.wf = true) : t.mem.vram.wf = true := by
  induction n generalizing i s with
  | zero =>
    injection h with _ h
    rwa [← h]
  | succ n ih =>
    simp only [chunkCopy] at h
    split at h
    · cases h
    · exact ih (s := setVram _ _ s) h (Memory.put_wf hw _ _)

/-- A chunk (R451): 16 bytes of video RAM, then the engine's registers. -/
theorem copyChunk_cases {s t : State} (h : copyChunk s = .ok () t) :
    ∃ u, chunkCopy 16 0 s = .ok () u ∧ t = chunkDone u := by
  unfold copyChunk at h
  split at h
  · next u hu =>
    injection h with _ h
    exact ⟨u, hu, h.symm⟩
  · cases h

/-- A chunk changes video RAM and the engine's source, destination and length (R451). -/
theorem copyChunk_frame {s t : State} (h : copyChunk s = .ok () t) :
    t = { s with
      mem := { s.mem with vram := t.mem.vram }
      hdma :=
        { s.hdma with
          src := s.hdma.src + 16
          dst := 0x8000#16 + BitVec.ofNat 16 (((s.hdma.dst - 0x8000#16).toNat + 16) % 0x2000)
          len := s.hdma.len - 16 } } := by
  obtain ⟨u, hu, rfl⟩ := copyChunk_cases h
  rw [chunkCopy_frame hu]
  rfl

theorem copyChunk_vram_wf {s t : State} (h : copyChunk s = .ok () t) (hw : s.mem.vram.wf = true) :
    t.mem.vram.wf = true := by
  obtain ⟨u, hu, rfl⟩ := copyChunk_cases h
  exact chunkCopy_vram_wf (s := s) (t := u) hu hw

/-- Chunks change video RAM and the engine's registers, and keep its activity (R451). -/
theorem copyChunks_frame {n : Nat} {s t : State} (h : copyChunks n s = .ok () t) :
    t = { s with mem := { s.mem with vram := t.mem.vram }, hdma := t.hdma } ∧ t.hdma.active = s.hdma.active ∧
      t.hdma.len = s.hdma.len - 16 * n := by
  induction n generalizing s with
  | zero =>
    injection h with _ h
    rw [← h]
    exact ⟨rfl, rfl, rfl⟩
  | succ n ih =>
    simp only [copyChunks] at h
    split at h
    · next u hu =>
      obtain ⟨hf, ha, hl⟩ := ih h
      have hu := copyChunk_frame hu
      refine ⟨?_, ?_, ?_⟩
      · rw [hf, hu]
      · rw [ha, hu]
      · rw [hl, hu]
        dsimp only
        omega
    · cases h

theorem copyChunks_vram_wf {n : Nat} {s t : State} (h : copyChunks n s = .ok () t) (hw : s.mem.vram.wf = true) :
    t.mem.vram.wf = true := by
  induction n generalizing s with
  | zero =>
    injection h with _ h
    rwa [← h]
  | succ n ih =>
    simp only [copyChunks] at h
    split at h
    · next hu => exact ih h (copyChunk_vram_wf hu hw)
    · cases h

/-! ### Writes -/

/-- A write to `HDMA5` (R452) changes video RAM and the engine only. -/
theorem hdma5Write_frame {v : Byte} {s t : State} (h : hdma5Write v s = .ok () t) :
    t = { s with mem := { s.mem with vram := t.mem.vram }, hdma := t.hdma } := by
  unfold hdma5Write at h
  split at h
  · injection h with _ h
    rw [← h]
    rfl
  · dsimp only at h
    split at h
    · injection h with _ h
      rw [← h]
      rfl
    · split at h
      · split at h
        · next hc =>
          injection h with _ h
          have hf := (copyChunks_frame hc).1
          rw [← h, hf]
          rfl
        · cases h
      · injection h with _ h
        rw [← h]
        rfl

theorem hdma5Write_vram_wf {v : Byte} {s t : State} (h : hdma5Write v s = .ok () t) (hw : s.mem.vram.wf = true) :
    t.mem.vram.wf = true := by
  unfold hdma5Write at h
  split at h
  · injection h with _ h
    rw [← h]
    exact hw
  · dsimp only at h
    split at h
    · injection h with _ h
      rw [← h]
      exact hw
    · split at h
      · split at h
        · next hc =>
          injection h with _ h
          rw [← h]
          have hw' := copyChunks_vram_wf (s := hdmaLoad v s) hc hw
          exact hw'
        · cases h
      · injection h with _ h
        rw [← h]
        exact hw

/-- What a write to the I/O window can be (R101). -/
theorem ioWrite_cases {n : Nat} {v : Byte} {s t : State} (h : ioWrite n v s = .ok () t) :
    (n = 0x00 ∧ t = p1Write v s) ∨ (n = 0x01 ∧ t = sbWrite v s) ∨ (n = 0x04 ∧ t = divWrite s) ∨
      (n = 0x40 ∧ t = lcdcWrite v s) ∨ (n = 0x41 ∧ t = statWrite v s) ∨ (n = 0x44 ∧ t = s) ∨
      (n = 0x45 ∧ t = lycWrite v s) ∨ (n = 0x46 ∧ dmaWrite v s = .ok () t) ∨ (n = 0x50 ∧ t = bootoffWrite v s) ∨
      (isCgb s = true ∧ n = 0x4D ∧ t = key1Write v s) ∨ (isCgb s = true ∧ n = 0x55 ∧ hdma5Write v s = .ok () t) ∨
      (isCgb s = true ∧ n = 0x69 ∧ t = bcpdWrite v s) ∨ (isCgb s = true ∧ n = 0x6B ∧ t = ocpdWrite v s) ∨
      (n ≠ 0x00 ∧ n ≠ 0x01 ∧ n ≠ 0x04 ∧ n ≠ 0x40 ∧ n ≠ 0x41 ∧ n ≠ 0x44 ∧ n ≠ 0x45 ∧ n ≠ 0x46 ∧ n ≠ 0x50 ∧
        (isCgb s = true → n ≠ 0x4D ∧ n ≠ 0x55 ∧ n ≠ 0x69 ∧ n ≠ 0x6B) ∧ t = setIo n v s) := by
  unfold ioWrite at h
  by_cases h00 : n = 0x00
  · rw [if_pos h00] at h
    injection h with _ h
    exact .inl ⟨h00, h.symm⟩
  rw [if_neg h00] at h
  refine .inr ?_
  by_cases h01 : n = 0x01
  · rw [if_pos h01] at h
    injection h with _ h
    exact .inl ⟨h01, h.symm⟩
  rw [if_neg h01] at h
  refine .inr ?_
  by_cases h04 : n = 0x04
  · rw [if_pos h04] at h
    injection h with _ h
    exact .inl ⟨h04, h.symm⟩
  rw [if_neg h04] at h
  refine .inr ?_
  by_cases h40 : n = 0x40
  · rw [if_pos h40] at h
    injection h with _ h
    exact .inl ⟨h40, h.symm⟩
  rw [if_neg h40] at h
  refine .inr ?_
  by_cases h41 : n = 0x41
  · rw [if_pos h41] at h
    injection h with _ h
    exact .inl ⟨h41, h.symm⟩
  rw [if_neg h41] at h
  refine .inr ?_
  by_cases h44 : n = 0x44
  · rw [if_pos h44] at h
    injection h with _ h
    exact .inl ⟨h44, h.symm⟩
  rw [if_neg h44] at h
  refine .inr ?_
  by_cases h45 : n = 0x45
  · rw [if_pos h45] at h
    injection h with _ h
    exact .inl ⟨h45, h.symm⟩
  rw [if_neg h45] at h
  refine .inr ?_
  by_cases h46 : n = 0x46
  · rw [if_pos h46] at h
    exact .inl ⟨h46, h⟩
  rw [if_neg h46] at h
  refine .inr ?_
  by_cases h50 : n = 0x50
  · rw [if_pos h50] at h
    injection h with _ h
    exact .inl ⟨h50, h.symm⟩
  rw [if_neg h50] at h
  refine .inr ?_
  by_cases hg : isCgb s = true
  · rw [if_pos hg] at h
    unfold cgbIoWrite at h
    by_cases h4D : n = 0x4D
    · rw [if_pos h4D] at h
      injection h with _ h
      exact .inl ⟨hg, h4D, h.symm⟩
    rw [if_neg h4D] at h
    refine .inr ?_
    by_cases h55 : n = 0x55
    · rw [if_pos h55] at h
      exact .inl ⟨hg, h55, h⟩
    rw [if_neg h55] at h
    refine .inr ?_
    by_cases h69 : n = 0x69
    · rw [if_pos h69] at h
      injection h with _ h
      exact .inl ⟨hg, h69, h.symm⟩
    rw [if_neg h69] at h
    refine .inr ?_
    by_cases h6B : n = 0x6B
    · rw [if_pos h6B] at h
      injection h with _ h
      exact .inl ⟨hg, h6B, h.symm⟩
    rw [if_neg h6B] at h
    refine .inr ?_
    injection h with _ h
    exact ⟨h00, h01, h04, h40, h41, h44, h45, h46, h50, fun _ => ⟨h4D, h55, h69, h6B⟩, h.symm⟩
  · rw [if_neg hg] at h
    injection h with _ h
    exact .inr (.inr (.inr (.inr ⟨h00, h01, h04, h40, h41, h44, h45, h46, h50, fun hc => absurd hc hg, h.symm⟩)))

/-- What a write can be (R82). -/
theorem writeByte_cases {s t : State} {addr : Word} {v : Byte} (h : writeByte s addr v = .ok () t) :
    (((∃ i, locate s addr = .boot i) ∨ ∃ off, locate s addr = .rom off) ∧ t = bankWrite addr v s) ∨
      (∃ off, locate s addr = .vram off ∧ t = setVram off v s) ∨
      (∃ off, locate s addr = .eram off ∧ t = setEram off v s) ∨
      (∃ off, locate s addr = .wram off ∧ t = setWram off v s) ∨
      (∃ off, locate s addr = .oam off ∧ t = setOam off v s) ∨
      (∃ n, locate s addr = .io n ∧ ioWrite n v s = .ok () t) ∨
      (∃ off, locate s addr = .hram off ∧ t = setHram off v s) ∨
      (locate s addr = .ie ∧ t = setIe v s) := by
  unfold writeByte at h
  split at h <;> first
    | (injection h with _ h; simp_all)
    | simp_all

/-- A store to plain storage always succeeds. -/
theorem writeByte_plain {s : State} {addr : Word} (hp : plainAt s addr = true) (v : Byte) :
    ∃ t, writeByte s addr v = .ok () t := by
  unfold plainAt at hp
  unfold writeByte
  split at hp <;> simp_all

/-- An OAM DMA write changes object attribute memory and the I/O bytes only (R106). -/
theorem dmaWrite_frame {v : Byte} {s t : State} (h : dmaWrite v s = .ok () t) :
    t = { s with mem := { s.mem with oam := t.mem.oam, io := (setIo 0x46 v s).mem.io } } := by
  have hf := oamCopy_frame h
  rw [hf]
  rfl

/-- The display-control write changes the I/O bytes and the Pixel Processor's cycle counter only (R103). -/
theorem lcdcWrite_frame (v : Byte) (s : State) :
    lcdcWrite v s = { s with mem := { s.mem with io := (lcdcWrite v s).mem.io }, ppu := (lcdcWrite v s).ppu } := by
  unfold lcdcWrite
  dsimp only
  split
  · rw [coincidenceCheck_frame]
    rfl
  · rfl

/-- An I/O write touches neither the Processor, nor the setup, nor the Scheduler, nor the latch, nor external, work or
fast RAM, nor `IE`, nor the bank registers; of the host's side it changes the serial output only (R101). -/
theorem ioWrite_frame {n : Nat} {v : Byte} {s t : State} (h : ioWrite n v s = .ok () t) :
    t.setup = s.setup ∧ t.cpu = s.cpu ∧ t.sched = s.sched ∧ t.fault = s.fault ∧
      t.host = { s.host with serialOut := t.host.serialOut } ∧ t.mem.eram = s.mem.eram ∧ t.mem.wram = s.mem.wram ∧
      t.mem.hram = s.mem.hram ∧ t.mem.ie = s.mem.ie ∧
      t.ctl = { s.ctl with bootActive := t.ctl.bootActive, joySelect := t.ctl.joySelect } := by
  rcases ioWrite_cases h with ⟨-, rfl⟩ | ⟨-, rfl⟩ | ⟨-, rfl⟩ | ⟨-, rfl⟩ | ⟨-, rfl⟩ | ⟨-, rfl⟩ | ⟨-, rfl⟩ | ⟨-, h⟩ |
    ⟨-, rfl⟩ | ⟨-, -, rfl⟩ | ⟨-, -, h⟩ | ⟨-, -, rfl⟩ | ⟨-, -, rfl⟩ | ⟨-, -, -, -, -, -, -, -, -, -, rfl⟩
  case inr.inr.inr.inr.inr.inr.inr.inl =>
    rw [dmaWrite_frame h]
    simp
  case inr.inr.inr.inr.inr.inr.inr.inr.inr.inr.inl =>
    rw [hdma5Write_frame h]
    simp
  case inr.inl => unfold sbWrite; dsimp only; split <;> simp
  case inr.inr.inr.inl => rw [lcdcWrite_frame]; simp
  case inr.inr.inr.inr.inr.inr.inl => unfold lycWrite; rw [coincidenceCheck_frame]; simp
  all_goals simp [p1Write, divWrite, statWrite, bootoffWrite, key1Write, bcpdWrite, ocpdWrite]

/-- A write touches neither the Processor, nor the setup, nor the Scheduler, nor the latch; of the host's side it changes
the serial output only (R82). -/
theorem writeByte_frame {s t : State} {addr : Word} {v : Byte} (h : writeByte s addr v = .ok () t) :
    t.setup = s.setup ∧ t.cpu = s.cpu ∧ t.sched = s.sched ∧ t.fault = s.fault ∧
      t.host = { s.host with serialOut := t.host.serialOut } := by
  rcases writeByte_cases h with ⟨-, rfl⟩ | ⟨_, -, rfl⟩ | ⟨_, -, rfl⟩ | ⟨_, -, rfl⟩ | ⟨_, -, rfl⟩ | ⟨_, -, h⟩ |
    ⟨_, -, rfl⟩ | ⟨-, rfl⟩
  case inl => rw [bankWrite_frame]; simp
  case inr.inr.inr.inr.inr.inl =>
    obtain ⟨h1, h2, h3, h4, h5, -⟩ := ioWrite_frame h
    exact ⟨h1, h2, h3, h4, h5⟩
  all_goals simp

/-! ### The canonical form -/

theorem Mems.canonical_iff (m : Mems) :
    m.canonical = true ↔ m.vram.wf = true ∧ m.eram.wf = true ∧ m.wram.wf = true ∧ m.oam.wf = true ∧ m.io.wf = true ∧
      m.hram.wf = true ∧ m.bgpal.wf = true ∧ m.objpal.wf = true := by
  simp only [Mems.canonical, Bool.and_eq_true, and_assoc]

/-- An I/O write keeps every memory canonical. -/
theorem ioWrite_canonical {n : Nat} {v : Byte} {s t : State} (h : ioWrite n v s = .ok () t)
    (hc : s.mem.canonical = true) : t.mem.canonical = true := by
  rw [Mems.canonical_iff] at hc ⊢
  obtain ⟨h1, h2, h3, h4, h5, h6, h7, h8⟩ := hc
  rcases ioWrite_cases h with ⟨-, rfl⟩ | ⟨-, rfl⟩ | ⟨-, rfl⟩ | ⟨-, rfl⟩ | ⟨-, rfl⟩ | ⟨-, rfl⟩ | ⟨-, rfl⟩ | ⟨-, h⟩ |
    ⟨-, rfl⟩ | ⟨-, -, rfl⟩ | ⟨-, -, h⟩ | ⟨-, -, rfl⟩ | ⟨-, -, rfl⟩ | ⟨-, -, -, -, -, -, -, -, -, -, rfl⟩
  case inr.inr.inr.inr.inr.inr.inr.inl =>
    have hw := oamCopy_oam_wf h (by simpa using h4)
    rw [dmaWrite_frame h]
    exact ⟨h1, h2, h3, hw, Memory.put_wf h5 _ _, h6, h7, h8⟩
  case inr.inr.inr.inr.inr.inr.inr.inr.inr.inr.inl =>
    have hw := hdma5Write_vram_wf h h1
    rw [hdma5Write_frame h]
    exact ⟨hw, h2, h3, h4, h5, h6, h7, h8⟩
  case inr.inl =>
    unfold sbWrite
    dsimp only
    split <;> exact ⟨h1, h2, h3, h4, Memory.put_wf h5 _ _, h6, h7, h8⟩
  case inr.inr.inr.inl =>
    have hw : (lcdcWrite v s).mem.io.wf = true := by
      unfold lcdcWrite
      dsimp only
      split
      · exact coincidenceCheck_io_wf (Memory.put_wf (Memory.put_wf (Memory.put_wf h5 _ _) _ _) _ _)
      · exact Memory.put_wf h5 _ _
    rw [lcdcWrite_frame]
    exact ⟨h1, h2, h3, h4, hw, h6, h7, h8⟩
  case inr.inr.inr.inr.inr.inr.inl =>
    have hw := coincidenceCheck_io_wf (s := setIo 0x45 v s) (Memory.put_wf h5 _ _)
    unfold lycWrite
    rw [coincidenceCheck_frame]
    exact ⟨h1, h2, h3, h4, hw, h6, h7, h8⟩
  all_goals simp [p1Write, divWrite, statWrite, bootoffWrite, key1Write, bcpdWrite, ocpdWrite, Memory.put_wf, *]

/-- A write keeps every memory canonical. -/
theorem writeByte_canonical {s t : State} {addr : Word} {v : Byte} (h : writeByte s addr v = .ok () t)
    (hc : s.mem.canonical = true) : t.mem.canonical = true := by
  rcases writeByte_cases h with ⟨-, rfl⟩ | ⟨_, -, rfl⟩ | ⟨_, -, rfl⟩ | ⟨_, -, rfl⟩ | ⟨_, -, rfl⟩ | ⟨_, -, h⟩ |
    ⟨_, -, rfl⟩ | ⟨-, rfl⟩
  case inl => rw [bankWrite_frame]; exact hc
  case inr.inr.inr.inr.inr.inl => exact ioWrite_canonical h hc
  all_goals
    rw [Mems.canonical_iff] at hc ⊢
    simp [Memory.put_wf, hc]

end Sys2Proof.Machine
end

