-- ==== Sys2Proof/Laws/Exec.lean ====
section
/-! SUPPORT. What an instruction can do: one lemma for each way to continue, one inversion lemma for `exec`. -/

namespace Sys2Proof.Machine

/-! ### Costs -/

/-- The cost of an instruction of one byte is its entry of `CYCLES` (R153). -/
theorem costOf_one {c : Costs} {i : Instr} {op : Byte} (h : encode i = [op]) : costOf c i = tableAt c.cycles op := by
  simp only [costOf, h]

/-- The cost of an instruction of more bytes whose first is not the escape is the first byte's entry of `CYCLES` (R153). -/
theorem costOf_more {c : Costs} {i : Instr} {op d : Byte} {rest : List Byte} (h : encode i = op :: d :: rest)
    (hop : op ≠ 0xCB) : costOf c i = tableAt c.cycles op := by
  simp only [costOf, h]
  exact if_neg hop

/-- The cost of an instruction behind the escape is its second byte's entry of `CYCLES_CB` (R153). -/
theorem costOf_escape {c : Costs} {i : Instr} {op2 : Byte} {rest : List Byte} (h : encode i = 0xCB :: op2 :: rest) :
    costOf c i = tableAt c.cyclesCb op2 := by
  simp only [costOf, h]
  exact if_pos rfl

/-- The cost of a transfer that is taken is its first byte's entry of `CYCLES_TAKEN` (R153). -/
theorem takenCostOf_cons {c : Costs} {i : Instr} {op : Byte} {rest : List Byte} (h : encode i = op :: rest) :
    takenCostOf c i = tableAt c.cyclesTaken op := by
  simp only [takenCostOf, h]

/-! ### Ways to continue -/

theorem done_next {i : Instr} {s t : State} : done i s = .next t ↔ t = setCost (costOf s.setup.costs i) s := by
  constructor
  · intro h
    injection h with h
    exact h.symm
  · rintro rfl
    rfl

theorem doneTaken_next {i : Instr} {s t : State} :
    doneTaken i s = .next t ↔ t = setCost (takenCostOf s.setup.costs i) s := by
  constructor
  · intro h
    injection h with h
    exact h.symm
  · rintro rfl
    rfl

theorem afterBus_next {α : Type} {r : Res α} {k : α → State → Out} {t : State} :
    afterBus r k = .next t ↔ ∃ v u, r = .ok v u ∧ k v u = .next t := by
  cases r with
  | ok v u =>
    constructor
    · exact fun h => ⟨v, u, rfl, h⟩
    · rintro ⟨v', u', h, h'⟩
      cases h
      exact h'
  | fatal addr u =>
    constructor
    · intro h
      cases h
    · rintro ⟨_, _, h, -⟩
      cases h

theorem withRead_next {addr : Word} {s t : State} {k : Byte → Out} :
    withRead addr s k = .next t ↔ ∃ v, readByte s addr = some v ∧ k v = .next t := by
  unfold withRead
  split
  · next v hv =>
    constructor
    · exact fun h => ⟨v, hv, h⟩
    · rintro ⟨v', h, h'⟩
      rw [hv] at h
      cases h
      exact h'
  · next hv =>
    constructor
    · intro h
      cases h
    · rintro ⟨_, h, -⟩
      rw [hv] at h
      cases h

theorem withWrite_next {addr : Word} {v : Byte} {s t : State} {k : State → Out} :
    withWrite addr v s k = .next t ↔ ∃ u, writeByte s addr v = .ok () u ∧ k u = .next t := by
  unfold withWrite
  rw [afterBus_next]
  constructor
  · rintro ⟨_, u, h, h'⟩
    exact ⟨u, h, h'⟩
  · rintro ⟨u, h, h'⟩
    exact ⟨(), u, h, h'⟩

theorem thenOut_next {o : Out} {k : State → Out} {t : State} :
    thenOut o k = .next t ↔ ∃ u, o = .next u ∧ k u = .next t := by
  cases o with
  | next u =>
    constructor
    · exact fun h => ⟨u, rfl, h⟩
    · rintro ⟨u', h, h'⟩
      cases h
      exact h'
  | fault r =>
    constructor
    · intro h
      cases h
    · rintro ⟨_, h, -⟩
      cases h
  | refused r =>
    constructor
    · intro h
      cases h
    · rintro ⟨_, h, -⟩
      cases h

/-! ### Registers -/

theorem setReg8_frame (r : Reg8) (v : Byte) (s : State) : setReg8 r v s = { s with cpu := (setReg8 r v s).cpu } := by
  cases r <;> rfl

theorem setReg16_frame (r : Reg16) (v : Word) (s : State) :
    setReg16 r v s = { s with cpu := (setReg16 r v s).cpu } := by
  cases r <;> rfl

/-! ### The stack -/

/-- A push is two stores, at `SP - 1` and `SP - 2` (R200). -/
theorem push16_ok {v : Word} {s t : State} (h : push16 v s = .ok () t) :
    ∃ u, writeByte (setReg16 .sp (s.cpu.sp - 1) s) (s.cpu.sp - 1) (hiByte v) = .ok () u ∧
      writeByte (setReg16 .sp (s.cpu.sp - 2) u) (s.cpu.sp - 2) (loByte v) = .ok () t := by
  simp only [push16] at h
  split at h
  · cases h
  · next u hu =>
    refine ⟨u, hu, ?_⟩
    have hc : u.cpu.sp = s.cpu.sp - 1 := by rw [(writeByte_frame hu).2.1, setReg16_sp_cpu_sp]
    have hs : u.cpu.sp - 1 = s.cpu.sp - 2 := by rw [hc]; bv_omega
    rwa [hs] at h

/-- After a push `SP` is two lower and no other register has changed (R200). -/
theorem push16_cpu {v : Word} {s t : State} (h : push16 v s = .ok () t) :
    t.cpu = { s.cpu with sp := s.cpu.sp - 2 } := by
  obtain ⟨u, hu, ht⟩ := push16_ok h
  rw [(writeByte_frame ht).2.1]
  simp only [setReg16, (writeByte_frame hu).2.1]

/-- A pop reads at `SP` and `SP + 1` and changes `SP` only (R201). -/
theorem pop16_ok {v : Word} {s t : State} (h : pop16 s = .ok v t) :
    ∃ lo hi, readByte s s.cpu.sp = some lo ∧ readByte s (s.cpu.sp + 1) = some hi ∧ v = hi ++ lo ∧
      t = { s with cpu := { s.cpu with sp := s.cpu.sp + 2 } } := by
  unfold pop16 at h
  dsimp only at h
  split at h
  · cases h
  · next lo hlo =>
    split at h
    · cases h
    · next hi hhi =>
      injection h with hv ht
      refine ⟨lo, hi, hlo, hhi, hv.symm, ?_⟩
      rw [← ht]
      simp only [setReg16, BitVec.add_assoc]
      rfl

/-! ### What an instruction can do -/

/-- One store, before and after which only the Processor's registers change. -/
def OneStore (s t : State) : Prop :=
  ∃ s1 a v u, OnlyCpu s s1 ∧ writeByte s1 a v = .ok () u ∧ OnlyCpu u t

/-- Two stores, around which only the Processor's registers change. -/
def TwoStores (s t : State) : Prop :=
  ∃ s1 a v u, OnlyCpu s s1 ∧ writeByte s1 a v = .ok () u ∧ OneStore u t

theorem OnlyCpu.refl (s : State) : OnlyCpu s s := rfl

theorem OnlyCpu.trans {s t u : State} (h : OnlyCpu s t) (h' : OnlyCpu t u) : OnlyCpu s u := by
  unfold OnlyCpu at *
  rw [h', h]

theorem onlyCpu_setReg8 (r : Reg8) (v : Byte) (s : State) : OnlyCpu s (setReg8 r v s) := setReg8_frame r v s
theorem onlyCpu_setReg16 (r : Reg16) (v : Word) (s : State) : OnlyCpu s (setReg16 r v s) := setReg16_frame r v s
theorem onlyCpu_cpu (s : State) (c : Cpu) : OnlyCpu s { s with cpu := c } := rfl

/-- An outcome that is a next state with registers changed, or after one store, or after two. -/
def Shape (s : State) (o : Out) : Prop :=
  ∀ t, o = .next t → OnlyCpu s t ∨ OneStore s t ∨ TwoStores s t

theorem shape_fault (s : State) (r : Fault) : Shape s (.fault r) := fun _ h => by cases h

theorem shape_done {s u : State} (h : OnlyCpu s u) (i : Instr) : Shape s (done i u) := by
  intro t ht
  rw [done_next.mp ht]
  exact .inl (h.trans (onlyCpu_cpu _ _))

theorem shape_doneTaken {s u : State} (h : OnlyCpu s u) (i : Instr) : Shape s (doneTaken i u) := by
  intro t ht
  rw [doneTaken_next.mp ht]
  exact .inl (h.trans (onlyCpu_cpu _ _))

theorem shape_read {s : State} {addr : Word} {k : Byte → Out} (h : ∀ v, Shape s (k v)) : Shape s (withRead addr s k) := by
  intro t ht
  obtain ⟨v, -, hk⟩ := withRead_next.mp ht
  exact h v t hk

/-- A store and then registers only. -/
theorem shape_write {s : State} {addr : Word} {v : Byte} {k : State → Out}
    (h : ∀ u t, k u = .next t → OnlyCpu u t) : Shape s (withWrite addr v s k) := by
  intro t ht
  obtain ⟨u, hu, hk⟩ := withWrite_next.mp ht
  exact .inr (.inl ⟨s, addr, v, u, .refl s, hu, h u t hk⟩)

/-- A push and then registers only. -/
theorem shape_push {s : State} {v : Word} {k : Unit → State → Out}
    (h : ∀ u t, k () u = .next t → OnlyCpu u t) : Shape s (afterBus (push16 v s) k) := by
  intro t ht
  obtain ⟨_, u, hu, hk⟩ := afterBus_next.mp ht
  obtain ⟨w, hw, hu⟩ := push16_ok hu
  exact .inr (.inr ⟨_, _, _, w, onlyCpu_setReg16 _ _ _, hw, _, _, _, u, onlyCpu_setReg16 _ _ _, hu, h u t hk⟩)

/-- A pop and then registers only. -/
theorem shape_pop {s : State} {k : Word → State → Out}
    (h : ∀ v u t, k v u = .next t → OnlyCpu u t) : Shape s (afterBus (pop16 s) k) := by
  intro t ht
  obtain ⟨v, u, hu, hk⟩ := afterBus_next.mp ht
  obtain ⟨_, _, -, -, -, hu⟩ := pop16_ok hu
  refine .inl (OnlyCpu.trans ?_ (h v u t hk))
  rw [hu]
  exact onlyCpu_cpu _ _

theorem onlyCpu_done {i : Instr} {s u t : State} (h : done i u = .next t) (hs : OnlyCpu s u) : OnlyCpu s t := by
  rw [done_next.mp h]
  exact hs.trans (onlyCpu_cpu _ _)

theorem onlyCpu_doneTaken {i : Instr} {s u t : State} (h : doneTaken i u = .next t) (hs : OnlyCpu s u) :
    OnlyCpu s t := by
  rw [doneTaken_next.mp h]
  exact hs.trans (onlyCpu_cpu _ _)

theorem onlyCpu_setFlags_setReg8 (f : Flags) (r : Reg8) (v : Byte) (s : State) :
    OnlyCpu s (setFlags f (setReg8 r v s)) := (onlyCpu_setReg8 r v s).trans (onlyCpu_cpu _ _)

theorem onlyCpu_setFlags_setReg16 (f : Flags) (r : Reg16) (v : Word) (s : State) :
    OnlyCpu s (setFlags f (setReg16 r v s)) := (onlyCpu_setReg16 r v s).trans (onlyCpu_cpu _ _)

theorem shape_shiftReg (i : Instr) (r : Reg8) (res : Byte × Bool) (s : State) : Shape s (shiftReg i r res s) :=
  shape_done (onlyCpu_setFlags_setReg8 _ _ _ _) _

theorem shape_shiftHl (i : Instr) (f : Byte → Byte × Bool) (s : State) : Shape s (shiftHl i f s) :=
  shape_read fun _ => shape_write fun _ _ h => onlyCpu_done h (onlyCpu_cpu _ _)

theorem shape_modifyHl (i : Instr) (f : Byte → Byte) (s : State) : Shape s (modifyHl i f s) :=
  shape_read fun _ => shape_write fun _ _ h => onlyCpu_done h (.refl _)

/-- An end of an instruction that changes registers only: its cost. -/
def EndsCpu (fin : State → Out) : Prop := ∀ u t, fin u = .next t → OnlyCpu u t

theorem endsCpu_done (i : Instr) : EndsCpu (done i) := fun _ _ h => onlyCpu_done h (.refl _)
theorem endsCpu_doneTaken (i : Instr) : EndsCpu (doneTaken i) := fun _ _ h => onlyCpu_doneTaken h (.refl _)

theorem shape_callTo {fin : State → Out} (hf : EndsCpu fin) (a : Word) (s : State) : Shape s (callTo a fin s) :=
  shape_push fun u _ h => (onlyCpu_cpu u _).trans (hf _ _ h)

theorem shape_returnWith {fin : State → Out} (hf : EndsCpu fin) (s : State) : Shape s (returnWith fin s) :=
  shape_pop fun _ u _ h => (onlyCpu_cpu u _).trans (hf _ _ h)

theorem shape_execReti (s : State) : Shape s (execReti s) := by
  intro t ht
  obtain ⟨_, u, hu, hk⟩ := afterBus_next.mp ht
  unfold returnFromInterrupt at hu
  split at hu
  · cases hu
  · next v w hw =>
    injection hu with _ hu
    obtain ⟨_, _, -, -, -, hw⟩ := pop16_ok hw
    refine .inl (onlyCpu_done hk ?_)
    rw [← hu, hw]
    rfl

theorem shape_execLdA16Sp (a16 : Word) (s : State) : Shape s (execLdA16Sp a16 s) := by
  intro t ht
  obtain ⟨_, u, hu, hk⟩ := afterBus_next.mp ht
  unfold writeWord at hu
  split at hu
  · cases hu
  · next w hw =>
    exact .inr (.inr ⟨s, _, _, w, .refl s, hw, w, _, _, u, .refl w, hu, onlyCpu_done hk (.refl u)⟩)

theorem shape_execSecondary (op2 : Byte) (s : State) : Shape s (execSecondary op2 s) := by
  have hrot : ∀ y r, Shape s (execRotRow y r s) := by
    intro y r
    unfold execRotRow
    split <;> first
      | exact shape_shiftReg _ _ _ _
      | exact shape_shiftHl _ _ _
  unfold execSecondary
  dsimp only
  split
  · exact hrot _ _
  · exact shape_done (onlyCpu_cpu _ _) _
  · exact shape_read fun _ => shape_done (onlyCpu_cpu _ _) _
  · exact shape_done (onlyCpu_setReg8 _ _ _) _
  · exact shape_modifyHl _ _ _
  · exact shape_done (onlyCpu_setReg8 _ _ _) _
  · exact shape_modifyHl _ _ _

theorem shape_execPrefixCb (s : State) : Shape s (execPrefixCb s) := by
  intro t ht
  obtain ⟨op2, u, hu, hk⟩ := afterBus_next.mp ht
  unfold fetch8 at hu
  split at hu
  · cases hu
  · injection hu with _ hu
    have hs : OnlyCpu s u := by
      rw [← hu]
      exact onlyCpu_cpu _ _
    rcases shape_execSecondary op2 u t hk with h | ⟨s1, a, v, w, h1, h2, h3⟩ | ⟨s1, a, v, w, h1, h2, h3⟩
    · exact .inl (hs.trans h)
    · exact .inr (.inl ⟨s1, a, v, w, hs.trans h1, h2, h3⟩)
    · exact .inr (.inr ⟨s1, a, v, w, hs.trans h1, h2, h3⟩)

theorem shape_if {s : State} {c : Prop} [Decidable c] {o o' : Out} (h : Shape s o) (h' : Shape s o') :
    Shape s (if c then o else o') := by
  split
  · exact h
  · exact h'

/-- What an instruction can do: change registers only, or make one store, or two, around which only registers change. -/
theorem exec_shape (i : Instr) (s : State) : Shape s (exec i s) := by
  cases i <;> first
    | exact shape_done (onlyCpu_cpu _ _) _
    | exact shape_done (onlyCpu_setReg8 _ _ _) _
    | exact shape_done (onlyCpu_setReg16 _ _ _) _
    | exact shape_done (onlyCpu_setFlags_setReg8 _ _ _ _) _
    | exact shape_done (onlyCpu_setFlags_setReg16 _ _ _ _) _
    | exact shape_read fun _ => shape_done (onlyCpu_setReg8 _ _ _) _
    | exact shape_read fun _ => shape_done (onlyCpu_setFlags_setReg8 _ _ _ _) _
    | exact shape_read fun _ => shape_done (onlyCpu_cpu _ _) _
    | exact shape_read fun _ => shape_done ((onlyCpu_setReg8 _ _ _).trans (onlyCpu_setReg16 _ _ _)) _
    | exact shape_write fun _ _ h => onlyCpu_done h (.refl _)
    | exact shape_write fun _ _ h => onlyCpu_done h (onlyCpu_setReg16 _ _ _)
    | exact shape_read fun _ => shape_write fun _ _ h => onlyCpu_done h (onlyCpu_cpu _ _)
    | exact shape_shiftReg _ _ _ _
    | exact shape_shiftHl _ _ _
    | exact shape_modifyHl _ _ _
    | exact shape_callTo (endsCpu_done _) _ _
    | exact shape_returnWith (endsCpu_done _) _
    | exact shape_push fun _ _ h => onlyCpu_done h (.refl _)
    | exact shape_pop fun _ _ _ h => onlyCpu_done h (onlyCpu_setReg16 _ _ _)
    | exact shape_execReti _
    | exact shape_execLdA16Sp _ _
    | exact shape_execPrefixCb _
    | exact shape_fault _ _
    | exact shape_if (shape_doneTaken (onlyCpu_cpu _ _) _) (shape_done (.refl _) _)
    | exact shape_if (shape_callTo (endsCpu_doneTaken _) _ _) (shape_done (.refl _) _)
    | exact shape_if (shape_returnWith (endsCpu_doneTaken _) _) (shape_done (.refl _) _)

/-! ### A property that registers and stores keep -/

/-- A property of the machine that no change of the Processor's registers and no write of the Bus breaks. -/
structure KeptByStores (P : State → Prop) : Prop where
  cpu : ∀ s t, OnlyCpu s t → P s → P t
  write : ∀ s a v t, writeByte s a v = .ok () t → P s → P t

theorem KeptByStores.oneStore {P : State → Prop} (hP : KeptByStores P) {s t : State} (h : OneStore s t) (hs : P s) :
    P t := by
  obtain ⟨s1, a, v, u, h1, h2, h3⟩ := h
  exact hP.cpu _ _ h3 (hP.write _ _ _ _ h2 (hP.cpu _ _ h1 hs))

/-- Such a property survives every instruction. -/
theorem KeptByStores.exec {P : State → Prop} (hP : KeptByStores P) {i : Instr} {s t : State}
    (h : Machine.exec i s = .next t) (hs : P s) : P t := by
  rcases exec_shape i s t h with h | h | ⟨s1, a, v, u, h1, h2, h3⟩
  · exact hP.cpu _ _ h hs
  · exact hP.oneStore h hs
  · exact hP.oneStore h3 (hP.write _ _ _ _ h2 (hP.cpu _ _ h1 hs))

/-- Such a property survives a push. -/
theorem KeptByStores.push {P : State → Prop} (hP : KeptByStores P) {v : Word} {s t : State}
    (h : push16 v s = .ok () t) (hs : P s) : P t := by
  obtain ⟨u, hu, ht⟩ := push16_ok h
  exact hP.write _ _ _ _ ht (hP.cpu _ _ (onlyCpu_setReg16 _ _ _)
    (hP.write _ _ _ _ hu (hP.cpu _ _ (onlyCpu_setReg16 _ _ _) hs)))

/-- No instruction changes the setup: the cartridge image above all (R31, R73, R87). -/
theorem exec_setup {i : Instr} {s t : State} (h : exec i s = .next t) : t.setup = s.setup := by
  have hP : KeptByStores (fun u => u.setup = s.setup) :=
    ⟨fun _ _ h hs => by rw [h]; exact hs, fun _ _ _ _ h hs => by rw [(writeByte_frame h).1]; exact hs⟩
  exact hP.exec h rfl

/-- Every instruction keeps every memory canonical. -/
theorem exec_canonical {i : Instr} {s t : State} (h : exec i s = .next t) (hc : s.mem.canonical = true) :
    t.mem.canonical = true := by
  have hP : KeptByStores (fun u => u.mem.canonical = true) :=
    ⟨fun _ _ h hs => by rw [h]; exact hs, fun _ _ _ _ h hs => writeByte_canonical h hs⟩
  exact hP.exec h hc

end Sys2Proof.Machine
end

