-- ==== Sys2Proof/Laws/PerInstr.lean ====
section
/-! SUPPORT. Statements about every instruction as syntax, one lemma per constructor. -/

namespace Sys2Proof.Laws.Encoding

/-- A well-formed instruction is what its encoding decodes to, all of its bytes taken; it has one to three of them
(R140, R146). -/
def Statement (i : Instr) : Prop :=
  i.wf = true → decode (encode i) = .instr i (encode i).length ∧ 1 ≤ (encode i).length ∧ (encode i).length ≤ 3

/-- The two bytes of a 16-bit immediate, low byte first, give it back (R144). -/
theorem word_of_bytes (w : Word) : w.extractLsb' 8 8 ++ w.extractLsb' 0 8 = w := by
  rw [BitVec.extractLsb'_append_extractLsb'_eq_extractLsb' (by rfl)]
  ext i hi
  simp

/-- Decoding three bytes with a 16-bit immediate. -/
theorem decode_withWord {op : Byte} {f : Word → Instr} (hl : lengthOf op = 3)
    (hd : ∀ lo hi, decodeOp op lo hi = f (hi ++ lo)) (w : Word) :
    decode (withWord op w) = .instr (f w) (withWord op w).length ∧ 1 ≤ (withWord op w).length ∧
      (withWord op w).length ≤ 3 := by
  refine ⟨?_, by simp [withWord], by simp [withWord]⟩
  simp only [withWord, decode, hl, hd, word_of_bytes, List.length_cons, List.length_nil]

theorem nop : Statement .nop := by
  unfold Statement
  decide

theorem ldA16Sp (a16 : Word) : Statement (.ldA16Sp a16) := fun _ =>
  decode_withWord (f := .ldA16Sp) rfl (fun _ _ => rfl) a16

theorem stop (padding : Byte) : Statement (.stop padding) := fun _ => ⟨rfl, Nat.le_add_left 1 1, Nat.le_add_left 2 1⟩

theorem jrE8 (e8 : Byte) : Statement (.jrE8 e8) := fun _ => ⟨rfl, Nat.le_add_left 1 1, Nat.le_add_left 2 1⟩

theorem jrCcE8 (cc : Cond) (e8 : Byte) : Statement (.jrCcE8 cc e8) := by
  cases cc <;> exact fun _ => ⟨rfl, Nat.le_add_left 1 1, Nat.le_add_left 2 1⟩

theorem ldRrD16 (rr : Reg16) (d16 : Word) : Statement (.ldRrD16 rr d16) := by
  intro h
  cases rr <;> first
    | exact decode_withWord (f := .ldRrD16 _) rfl (fun _ _ => rfl) d16
    | cases h

theorem addHlRr (rr : Reg16) : Statement (.addHlRr rr) := by
  cases rr <;> unfold Statement <;> decide

theorem ldBcA : Statement .ldBcA := by
  unfold Statement
  decide

theorem ldDeA : Statement .ldDeA := by
  unfold Statement
  decide

theorem ldHliA : Statement .ldHliA := by
  unfold Statement
  decide

theorem ldHldA : Statement .ldHldA := by
  unfold Statement
  decide

theorem ldABc : Statement .ldABc := by
  unfold Statement
  decide

theorem ldADe : Statement .ldADe := by
  unfold Statement
  decide

theorem ldAHli : Statement .ldAHli := by
  unfold Statement
  decide

theorem ldAHld : Statement .ldAHld := by
  unfold Statement
  decide

theorem incRr (rr : Reg16) : Statement (.incRr rr) := by
  cases rr <;> unfold Statement <;> decide

theorem decRr (rr : Reg16) : Statement (.decRr rr) := by
  cases rr <;> unfold Statement <;> decide

theorem incR (r : Reg8) : Statement (.incR r) := by
  cases r <;> unfold Statement <;> decide

theorem incHl : Statement .incHl := by
  unfold Statement
  decide

theorem decR (r : Reg8) : Statement (.decR r) := by
  cases r <;> unfold Statement <;> decide

theorem decHl : Statement .decHl := by
  unfold Statement
  decide

theorem ldRD8 (r : Reg8) (d8 : Byte) : Statement (.ldRD8 r d8) := by
  intro h
  cases r <;> first
    | exact ⟨rfl, Nat.le_add_left 1 1, Nat.le_add_left 2 1⟩
    | cases h

theorem ldHlD8 (d8 : Byte) : Statement (.ldHlD8 d8) := fun _ => ⟨rfl, Nat.le_add_left 1 1, Nat.le_add_left 2 1⟩

theorem rlca : Statement .rlca := by
  unfold Statement
  decide

theorem rrca : Statement .rrca := by
  unfold Statement
  decide

theorem rla : Statement .rla := by
  unfold Statement
  decide

theorem rra : Statement .rra := by
  unfold Statement
  decide

theorem daa : Statement .daa := by
  unfold Statement
  decide

theorem cpl : Statement .cpl := by
  unfold Statement
  decide

theorem scf : Statement .scf := by
  unfold Statement
  decide

theorem ccf : Statement .ccf := by
  unfold Statement
  decide

theorem ldRR (dst : Reg8) (src : Reg8) : Statement (.ldRR dst src) := by
  cases dst <;> cases src <;> unfold Statement <;> decide

theorem ldRHl (r : Reg8) : Statement (.ldRHl r) := by
  cases r <;> unfold Statement <;> decide

theorem ldHlR (r : Reg8) : Statement (.ldHlR r) := by
  cases r <;> unfold Statement <;> decide

theorem halt : Statement .halt := by
  unfold Statement
  decide

theorem addR (r : Reg8) : Statement (.addR r) := by
  cases r <;> unfold Statement <;> decide

theorem addHl : Statement .addHl := by
  unfold Statement
  decide

theorem addD8 (d8 : Byte) : Statement (.addD8 d8) := fun _ => ⟨rfl, Nat.le_add_left 1 1, Nat.le_add_left 2 1⟩

theorem adcR (r : Reg8) : Statement (.adcR r) := by
  cases r <;> unfold Statement <;> decide

theorem adcHl : Statement .adcHl := by
  unfold Statement
  decide

theorem adcD8 (d8 : Byte) : Statement (.adcD8 d8) := fun _ => ⟨rfl, Nat.le_add_left 1 1, Nat.le_add_left 2 1⟩

theorem subR (r : Reg8) : Statement (.subR r) := by
  cases r <;> unfold Statement <;> decide

theorem subHl : Statement .subHl := by
  unfold Statement
  decide

theorem subD8 (d8 : Byte) : Statement (.subD8 d8) := fun _ => ⟨rfl, Nat.le_add_left 1 1, Nat.le_add_left 2 1⟩

theorem sbcR (r : Reg8) : Statement (.sbcR r) := by
  cases r <;> unfold Statement <;> decide

theorem sbcHl : Statement .sbcHl := by
  unfold Statement
  decide

theorem sbcD8 (d8 : Byte) : Statement (.sbcD8 d8) := fun _ => ⟨rfl, Nat.le_add_left 1 1, Nat.le_add_left 2 1⟩

theorem andR (r : Reg8) : Statement (.andR r) := by
  cases r <;> unfold Statement <;> decide

theorem andHl : Statement .andHl := by
  unfold Statement
  decide

theorem andD8 (d8 : Byte) : Statement (.andD8 d8) := fun _ => ⟨rfl, Nat.le_add_left 1 1, Nat.le_add_left 2 1⟩

theorem xorR (r : Reg8) : Statement (.xorR r) := by
  cases r <;> unfold Statement <;> decide

theorem xorHl : Statement .xorHl := by
  unfold Statement
  decide

theorem xorD8 (d8 : Byte) : Statement (.xorD8 d8) := fun _ => ⟨rfl, Nat.le_add_left 1 1, Nat.le_add_left 2 1⟩

theorem orR (r : Reg8) : Statement (.orR r) := by
  cases r <;> unfold Statement <;> decide

theorem orHl : Statement .orHl := by
  unfold Statement
  decide

theorem orD8 (d8 : Byte) : Statement (.orD8 d8) := fun _ => ⟨rfl, Nat.le_add_left 1 1, Nat.le_add_left 2 1⟩

theorem cpR (r : Reg8) : Statement (.cpR r) := by
  cases r <;> unfold Statement <;> decide

theorem cpHl : Statement .cpHl := by
  unfold Statement
  decide

theorem cpD8 (d8 : Byte) : Statement (.cpD8 d8) := fun _ => ⟨rfl, Nat.le_add_left 1 1, Nat.le_add_left 2 1⟩

theorem retCc (cc : Cond) : Statement (.retCc cc) := by
  cases cc <;> unfold Statement <;> decide

theorem ldhA8A (a8 : Byte) : Statement (.ldhA8A a8) := fun _ => ⟨rfl, Nat.le_add_left 1 1, Nat.le_add_left 2 1⟩

theorem addSpE8 (e8 : Byte) : Statement (.addSpE8 e8) := fun _ => ⟨rfl, Nat.le_add_left 1 1, Nat.le_add_left 2 1⟩

theorem ldhAA8 (a8 : Byte) : Statement (.ldhAA8 a8) := fun _ => ⟨rfl, Nat.le_add_left 1 1, Nat.le_add_left 2 1⟩

theorem ldHlSpE8 (e8 : Byte) : Statement (.ldHlSpE8 e8) := fun _ => ⟨rfl, Nat.le_add_left 1 1, Nat.le_add_left 2 1⟩

theorem popRr (rr : Reg16) : Statement (.popRr rr) := by
  cases rr <;> unfold Statement <;> decide

theorem popAf : Statement .popAf := by
  unfold Statement
  decide

theorem ret : Statement .ret := by
  unfold Statement
  decide

theorem reti : Statement .reti := by
  unfold Statement
  decide

theorem jpHl : Statement .jpHl := by
  unfold Statement
  decide

theorem ldSpHl : Statement .ldSpHl := by
  unfold Statement
  decide

theorem jpCcA16 (cc : Cond) (a16 : Word) : Statement (.jpCcA16 cc a16) := by
  cases cc <;> exact fun _ => decode_withWord (f := .jpCcA16 _) rfl (fun _ _ => rfl) a16

theorem ldhCA : Statement .ldhCA := by
  unfold Statement
  decide

theorem ldA16A (a16 : Word) : Statement (.ldA16A a16) := fun _ =>
  decode_withWord (f := .ldA16A) rfl (fun _ _ => rfl) a16

theorem ldhAC : Statement .ldhAC := by
  unfold Statement
  decide

theorem ldAA16 (a16 : Word) : Statement (.ldAA16 a16) := fun _ =>
  decode_withWord (f := .ldAA16) rfl (fun _ _ => rfl) a16

theorem jpA16 (a16 : Word) : Statement (.jpA16 a16) := fun _ =>
  decode_withWord (f := .jpA16) rfl (fun _ _ => rfl) a16

theorem prefixCb : Statement .prefixCb := by
  unfold Statement
  decide

theorem di : Statement .di := by
  unfold Statement
  decide

theorem ei : Statement .ei := by
  unfold Statement
  decide

theorem callCcA16 (cc : Cond) (a16 : Word) : Statement (.callCcA16 cc a16) := by
  cases cc <;> exact fun _ => decode_withWord (f := .callCcA16 _) rfl (fun _ _ => rfl) a16

theorem pushRr (rr : Reg16) : Statement (.pushRr rr) := by
  cases rr <;> unfold Statement <;> decide

theorem callA16 (a16 : Word) : Statement (.callA16 a16) := fun _ =>
  decode_withWord (f := .callA16) rfl (fun _ _ => rfl) a16

theorem rstN (t : BitVec 3) : Statement (.rstN t) := by
  revert t
  unfold Statement
  decide

theorem undefinedD3 : Statement .undefinedD3 := by
  unfold Statement
  decide

theorem undefinedDB : Statement .undefinedDB := by
  unfold Statement
  decide

theorem undefinedDD : Statement .undefinedDD := by
  unfold Statement
  decide

theorem undefinedE3 : Statement .undefinedE3 := by
  unfold Statement
  decide

theorem undefinedE4 : Statement .undefinedE4 := by
  unfold Statement
  decide

theorem undefinedEB : Statement .undefinedEB := by
  unfold Statement
  decide

theorem undefinedEC : Statement .undefinedEC := by
  unfold Statement
  decide

theorem undefinedED : Statement .undefinedED := by
  unfold Statement
  decide

theorem undefinedF4 : Statement .undefinedF4 := by
  unfold Statement
  decide

theorem undefinedFC : Statement .undefinedFC := by
  unfold Statement
  decide

theorem undefinedFD : Statement .undefinedFD := by
  unfold Statement
  decide

theorem rlcR (r : Reg8) : Statement (.rlcR r) := by
  cases r <;> unfold Statement <;> decide

theorem rlcHl : Statement .rlcHl := by
  unfold Statement
  decide

theorem rrcR (r : Reg8) : Statement (.rrcR r) := by
  cases r <;> unfold Statement <;> decide

theorem rrcHl : Statement .rrcHl := by
  unfold Statement
  decide

theorem rlR (r : Reg8) : Statement (.rlR r) := by
  cases r <;> unfold Statement <;> decide

theorem rlHl : Statement .rlHl := by
  unfold Statement
  decide

theorem rrR (r : Reg8) : Statement (.rrR r) := by
  cases r <;> unfold Statement <;> decide

theorem rrHl : Statement .rrHl := by
  unfold Statement
  decide

theorem slaR (r : Reg8) : Statement (.slaR r) := by
  cases r <;> unfold Statement <;> decide

theorem slaHl : Statement .slaHl := by
  unfold Statement
  decide

theorem sraR (r : Reg8) : Statement (.sraR r) := by
  cases r <;> unfold Statement <;> decide

theorem sraHl : Statement .sraHl := by
  unfold Statement
  decide

theorem swapR (r : Reg8) : Statement (.swapR r) := by
  cases r <;> unfold Statement <;> decide

theorem swapHl : Statement .swapHl := by
  unfold Statement
  decide

theorem srlR (r : Reg8) : Statement (.srlR r) := by
  cases r <;> unfold Statement <;> decide

theorem srlHl : Statement .srlHl := by
  unfold Statement
  decide

theorem bitBR (b : BitVec 3) (r : Reg8) : Statement (.bitBR b r) := by
  cases r <;> revert b <;> unfold Statement <;> decide

theorem bitBHl (b : BitVec 3) : Statement (.bitBHl b) := by
  revert b
  unfold Statement
  decide

theorem resBR (b : BitVec 3) (r : Reg8) : Statement (.resBR b r) := by
  cases r <;> revert b <;> unfold Statement <;> decide

theorem resBHl (b : BitVec 3) : Statement (.resBHl b) := by
  revert b
  unfold Statement
  decide

theorem setBR (b : BitVec 3) (r : Reg8) : Statement (.setBR b r) := by
  cases r <;> revert b <;> unfold Statement <;> decide

theorem setBHl (b : BitVec 3) : Statement (.setBHl b) := by
  revert b
  unfold Statement
  decide

end Sys2Proof.Laws.Encoding
end

