-- ==== Sys2Proof/Laws/Step.lean ====
section
/-! SUPPORT. What a step can do: inversion lemmas for its parts and frame lemmas for the devices. -/

namespace Sys2Proof.Machine

/-! ### The Processor's step -/

theorem fetch8_ok {s t : State} {v : Byte} (h : fetch8 s = .ok v t) :
    readByte s s.cpu.pc = some v ∧ t = setPc (s.cpu.pc + 1) s := by
  unfold fetch8 at h
  split at h
  · cases h
  · next w hw =>
    injection h with hv ht
    exact ⟨by rw [hw, hv], ht.symm⟩

theorem fetchRest_onlyCpu {n : Nat} {s t : State} {b : Byte × Byte} (h : fetchRest n s = .ok b t) : OnlyCpu s t := by
  unfold fetchRest at h
  split at h
  · injection h with _ h
    exact h ▸ .refl s
  · split at h
    · cases h
    · next u hu =>
      have hu := (fetch8_ok hu).2
      split at h
      · injection h with _ h
        rw [← h, hu]
        exact onlyCpu_cpu _ _
      · split at h
        · cases h
        · next w hw =>
          injection h with _ h
          rw [← h, (fetch8_ok hw).2, hu]
          exact onlyCpu_cpu _ _

/-- Fetching changes the program counter's group only (R145). -/
theorem fetchInstr_onlyCpu {s t : State} {i : Instr} (h : fetchInstr s = .ok i t) : OnlyCpu s t := by
  unfold fetchInstr at h
  split at h
  · cases h
  · next hu =>
    split at h
    · cases h
    · next hw =>
      injection h with _ h
      rw [← h]
      refine OnlyCpu.trans ?_ (fetchRest_onlyCpu hw)
      rw [(fetch8_ok hu).2]
      exact onlyCpu_cpu _ _

/-- An executed instruction (R360, R363): fetched, run, and a pending enable committed. -/
theorem executePath_next {s t : State} (h : executePath s = .next t) :
    ∃ i u v, fetchInstr s = .ok i u ∧ exec i u = .next v ∧ t = commitEnable s.cpu.imePending v := by
  obtain ⟨i, u, hu, hk⟩ := afterBus_next.mp h
  obtain ⟨v, hv, ht⟩ := thenOut_next.mp hk
  injection ht with ht
  exact ⟨i, u, v, hu, hv, ht.symm⟩

theorem commitEnable_onlyCpu (b : Bool) (s : State) : OnlyCpu s (commitEnable b s) := by
  unfold commitEnable
  split
  · exact onlyCpu_cpu _ _
  · exact .refl s

theorem haltCheck_onlyCpu (s : State) : OnlyCpu s (haltCheck s) := by
  unfold haltCheck
  dsimp only
  split <;> exact onlyCpu_cpu _ _

/-- The stopped step changes the Processor, the I/O bytes and the host's list of wake values (R361). -/
theorem stoppedStep_frame (s : State) :
    stoppedStep s = { s with
      cpu := (stoppedStep s).cpu
      mem := { s.mem with io := (stoppedStep s).mem.io }
      host := { s.host with stopWakes := (stoppedStep s).host.stopWakes } } := by
  unfold stoppedStep
  dsimp only
  split
  · unfold speedSwitch
    split <;> rfl
  · unfold stopWake
    split
    · rfl
    · dsimp only
      split <;> rfl

/-- What a step does before its dispatch check (R360). -/
theorem stepBody_next {s t : State} (h : stepBody s = .next t) :
    (s.cpu.stop = true ∧ t = stoppedStep s) ∨
      (s.cpu.stop = false ∧ s.cpu.halt = true ∧ t = haltCheck s) ∨
      (s.cpu.stop = false ∧ s.cpu.halt = false ∧ ∃ u, executePath s = .next u ∧
        t = if u.cpu.halt then haltCheck u else u) := by
  unfold stepBody at h
  split at h
  · next hs =>
    injection h with h
    exact .inl ⟨hs, h.symm⟩
  · next hs =>
    have hs : s.cpu.stop = false := by simpa using hs
    obtain ⟨u, hu, ht⟩ := thenOut_next.mp h
    injection ht with ht
    split at hu
    · next hh =>
      injection hu with hu
      subst hu
      rw [if_pos hh] at ht
      exact .inr (.inl ⟨hs, hh, ht.symm⟩)
    · next hh => exact .inr (.inr ⟨hs, by simpa using hh, u, hu, ht.symm⟩)

/-- Taking an interrupt (R364): the request and the enables cleared, the program counter pushed, the vector. -/
theorem takeInterrupt_ok {i : Nat} {s t : State} (h : takeInterrupt i s = .ok () t) :
    ∃ u, push16 s.cpu.pc (setImePending false (setIme false (setIo 0x0F (withoutRequest i (ifReg s)) s))) = .ok () u ∧
      t = addCost (intDispatchCycles u) (setPc (vector i) u) := by
  unfold takeInterrupt at h
  dsimp only at h
  split at h
  · cases h
  · next u hu =>
    injection h with _ h
    exact ⟨u, hu, h.symm⟩

/-- The dispatch check (R364): nothing, or one interrupt. -/
theorem dispatch_ok {s t : State} (h : dispatch s = .ok () t) :
    t = s ∨ (s.cpu.ime = true ∧ s.cpu.halt = false ∧ s.cpu.stop = false ∧
      ∃ i, firstPending (pendingInterrupts s) = some i ∧ takeInterrupt i s = .ok () t) := by
  unfold dispatch at h
  split at h
  · next hc =>
    split at h
    · next i hi => exact .inr ⟨hc.1, hc.2.1, hc.2.2, i, hi, h⟩
    · injection h with _ h
      exact .inl h.symm
  · injection h with _ h
    exact .inl h.symm

/-- A Processor step is its body and its dispatch check (R360). -/
theorem processorStep_next {s t : State} (h : processorStep s = .next t) :
    ∃ u v, stepBody (setCost 0 s) = .next u ∧ dispatch u = .ok () v ∧ t = addTotal v := by
  obtain ⟨u, hu, hk⟩ := thenOut_next.mp h
  obtain ⟨_, v, hv, ht⟩ := afterBus_next.mp hk
  injection ht with ht
  exact ⟨u, v, hu, hv, ht.symm⟩

/-- A property that registers, stores, I/O bytes and the host's side keep survives a Processor step. -/
theorem KeptByStores.processorStep {P : State → Prop} (hP : KeptByStores P)
    (hio : ∀ s n v, P s → P (setIo n v s)) (hhost : ∀ (s : State) h, P s → P { s with host := h })
    {s t : State} (h : processorStep s = .next t) (hs : P s) : P t := by
  obtain ⟨u, v, hu, hv, rfl⟩ := processorStep_next h
  refine hP.cpu v _ (onlyCpu_cpu _ _) ?_
  have hs : P (setCost 0 s) := hP.cpu _ _ (onlyCpu_cpu _ _) hs
  have hPu : P u := by
    rcases stepBody_next hu with ⟨-, rfl⟩ | ⟨-, -, rfl⟩ | ⟨-, -, w, hw, rfl⟩
    · unfold stoppedStep
      dsimp only
      have h1 : P (setCost (stopIdleCycles (setCost 0 s)) (setCost 0 s)) := hP.cpu _ _ (onlyCpu_cpu _ _) hs
      split
      · refine hP.cpu _ _ (onlyCpu_cpu _ _) ?_
        unfold speedSwitch
        split
        · exact hio _ _ _ h1
        · exact h1
      · have h2 : P (stopWake (setCost (stopIdleCycles (setCost 0 s)) (setCost 0 s))).2 := by
          unfold stopWake
          split
          · exact h1
          · exact hhost _ _ h1
        split
        · exact hP.cpu _ _ (onlyCpu_cpu _ _) h2
        · exact h2
    · exact hP.cpu _ _ (haltCheck_onlyCpu _) hs
    · obtain ⟨i, a, b, ha, hb, rfl⟩ := executePath_next hw
      have h1 := hP.exec hb (hP.cpu _ _ (fetchInstr_onlyCpu ha) hs)
      have h2 := hP.cpu _ _ (commitEnable_onlyCpu (setCost 0 s).cpu.imePending b) h1
      split
      · exact hP.cpu _ _ (haltCheck_onlyCpu _) h2
      · exact h2
  rcases dispatch_ok hv with rfl | ⟨-, -, -, i, -, ht⟩
  · exact hPu
  · obtain ⟨w, hw, rfl⟩ := takeInterrupt_ok ht
    refine hP.cpu w _ (onlyCpu_cpu _ _) (hP.push hw ?_)
    exact hP.cpu (setIo 0x0F (withoutRequest i (ifReg u)) u) _ (onlyCpu_cpu _ _) (hio _ _ _ hPu)

/-! ### The devices -/

/-- Ticks of `TIMA` change the I/O bytes only (R383). -/
theorem timaTicks_frame (n : Nat) (s : State) :
    timaTicks n s = { s with mem := { s.mem with io := (timaTicks n s).mem.io } } := by
  induction n generalizing s with
  | zero => rfl
  | succ n ih =>
    simp only [timaTicks]
    rw [ih]
    unfold timaTick
    split <;> rfl

/-- The Timer changes its own state and the I/O bytes only (R381). -/
theorem timerAdvance_frame (c : Nat) (s : State) :
    timerAdvance c s = { s with
      mem := { s.mem with io := (timerAdvance c s).mem.io }
      timer := (timerAdvance c s).timer } := by
  have hd : divAdvance c s = { s with
      mem := { s.mem with io := (divAdvance c s).mem.io }
      timer := (divAdvance c s).timer } := by
    unfold divAdvance
    split <;> rfl
  unfold timerAdvance
  generalize divAdvance c s = u at hd ⊢
  have hs : timaSelect u = { u with timer := (timaSelect u).timer } := by
    unfold timaSelect
    dsimp only
    split <;> rfl
  unfold timaAdvance
  dsimp only
  generalize timaSelect u = w at hs ⊢
  split
  · rw [timaTicks_frame, hs, hd]
    rfl
  · rw [hs, hd]

theorem statRequest_frame (i : Nat) (s : State) :
    statRequest i s = { s with mem := { s.mem with io := (statRequest i s).mem.io } } := by
  unfold statRequest
  split <;> rfl

/-- The H-blank DMA step changes video RAM and the engine only (R453). -/
theorem hdmaStep_frame {s t : State} (h : hdmaStep s = .ok () t) :
    t = { s with mem := { s.mem with vram := t.mem.vram }, hdma := t.hdma } := by
  unfold hdmaStep at h
  split at h
  · cases h
  · next u hu =>
    have hf := copyChunk_frame hu
    split at h
    · injection h with _ h
      rw [← h, hf]
      rfl
    · injection h with _ h
      rw [← h, hf]

theorem hdmaStep_vram_wf {s t : State} (h : hdmaStep s = .ok () t) (hw : s.mem.vram.wf = true) :
    t.mem.vram.wf = true := by
  unfold hdmaStep at h
  split at h
  · cases h
  · next u hu =>
    have hw := copyChunk_vram_wf hu hw
    split at h
    · injection h with _ h
      rw [← h]
      exact hw
    · injection h with _ h
      rw [← h]
      exact hw

/-- What the Pixel Processor may change: the I/O bytes, video RAM through the DMA, its own state, the engine, the host's
frame (R410, R412). -/
def PpuOnly (s t : State) : Prop :=
  t = { s with
    mem := { s.mem with io := t.mem.io, vram := t.mem.vram }
    ppu := t.ppu
    hdma := t.hdma
    host := { s.host with frameCount := t.host.frameCount, frameOut := t.host.frameOut } }

theorem PpuOnly.trans {s t u : State} (h : PpuOnly s t) (h' : PpuOnly t u) : PpuOnly s u := by
  unfold PpuOnly at *
  rw [h', h]

theorem ppuTransition_frame {s t : State} (h : ppuTransition s = .ok () t) : PpuOnly s t := by
  unfold ppuTransition at h
  dsimp only at h
  generalize hs1 : setPpuCyc (s.ppu.cyc - modeCycles s (ppuMode s)) s = s1 at h
  have h0 : PpuOnly s s1 := by
    rw [← hs1]
    rfl
  refine h0.trans ?_
  split at h
  · injection h with _ h
    rw [← h]
    rfl
  · unfold leavePixelTransfer at h
    dsimp only at h
    rw [statRequest_frame] at h
    generalize (statRequest 3 (setMode PpuMode.hBlank (renderScanline (ly s1).toNat s1))).mem.io = x at h
    split at h
    · rw [hdmaStep_frame h]
      rfl
    · injection h with _ h
      rw [← h]
      rfl
  · injection h with _ h
    rw [← h]
    unfold leaveHBlank
    dsimp only
    rw [coincidenceCheck_frame]
    generalize (coincidenceCheck (setLy (ly s1 + 1) s1)).mem.io = x
    split
    · rw [statRequest_frame]
      rfl
    · rw [statRequest_frame]
      rfl
  · injection h with _ h
    rw [← h]
    unfold leaveVBlankLine
    split
    · rw [coincidenceCheck_frame, statRequest_frame]
      rfl
    · rw [coincidenceCheck_frame]
      rfl

theorem ppuRun_frame {n : Nat} {s t : State} (h : ppuRun n s = .ok () t) : PpuOnly s t := by
  induction n generalizing s with
  | zero =>
    injection h with _ h
    rw [← h]
    rfl
  | succ n ih =>
    simp only [ppuRun] at h
    split at h
    · split at h
      · cases h
      · next hu => exact (ppuTransition_frame hu).trans (ih h)
    · injection h with _ h
      rw [← h]
      rfl

/-- The Pixel Processor's advance (R412). -/
theorem ppuAdvance_frame {c : Nat} {s t : State} (h : ppuAdvance c s = .ok () t) : PpuOnly s t := by
  unfold ppuAdvance at h
  split at h
  · exact PpuOnly.trans (t := setPpuCyc (s.ppu.cyc + c) s) rfl (ppuRun_frame h)
  · injection h with _ h
    rw [← h]
    rfl

/-- A property of the display machine that one transition keeps is kept by the whole advance (R412). -/
theorem ppuRun_induct {P : State → Prop} {n : Nat} {s t : State}
    (hstep : ∀ u v, P u → modeCycles u (ppuMode u) ≤ u.ppu.cyc → ppuTransition u = .ok () v → P v)
    (h : ppuRun n s = .ok () t) (hs : P s) : P t := by
  induction n generalizing s with
  | zero =>
    injection h with _ h
    exact h ▸ hs
  | succ n ih =>
    simp only [ppuRun] at h
    split at h
    · next hc =>
      split at h
      · cases h
      · next hu => exact ih h (hstep _ _ hs hc hu)
    · injection h with _ h
      exact h ▸ hs

/-- A transition takes exactly its mode's cycles off the counter (R412). -/
theorem ppuTransition_cyc {s t : State} (h : ppuTransition s = .ok () t) :
    t.ppu.cyc = s.ppu.cyc - modeCycles s (ppuMode s) := by
  unfold ppuTransition at h
  dsimp only at h
  generalize hs1 : setPpuCyc (s.ppu.cyc - modeCycles s (ppuMode s)) s = s1 at h
  have h1 : s1.ppu.cyc = s.ppu.cyc - modeCycles s (ppuMode s) := by
    rw [← hs1]
    rfl
  rw [← h1]
  split at h
  · injection h with _ h
    rw [← h]
    rfl
  · unfold leavePixelTransfer at h
    dsimp only at h
    rw [statRequest_frame] at h
    generalize (statRequest 3 (setMode PpuMode.hBlank (renderScanline (ly s1).toNat s1))).mem.io = x at h
    split at h
    · rw [hdmaStep_frame h]
      rfl
    · injection h with _ h
      rw [← h]
      rfl
  · injection h with _ h
    rw [← h]
    unfold leaveHBlank
    dsimp only
    rw [coincidenceCheck_frame]
    generalize (coincidenceCheck (setLy (ly s1 + 1) s1)).mem.io = x
    split
    · unfold frameReady
      dsimp only
      rw [statRequest_frame]
      rfl
    · rw [statRequest_frame]
      rfl
  · injection h with _ h
    rw [← h]
    unfold leaveVBlankLine
    split
    · rw [coincidenceCheck_frame, statRequest_frame]
      rfl
    · rw [coincidenceCheck_frame]
      rfl

/-- No mode lasts zero cycles (`Display.wf`). -/
theorem modeCycles_pos {s : State} (h : s.setup.display.wf = true) (m : PpuMode) : 0 < modeCycles s m := by
  simp only [Display.wf, Bool.and_eq_true, decide_eq_true_eq] at h
  obtain ⟨⟨⟨⟨⟨⟨⟨h1, h2⟩, h3⟩, h4⟩, -⟩, -⟩, -⟩, -⟩ := h
  cases m <;> assumption

/-- The fuel never runs out: with more fuel than cycles the run ends because no transition fires (R412). -/
theorem ppuRun_ends {n : Nat} {s t : State} (hd : s.setup.display.wf = true) (hn : s.ppu.cyc < n)
    (h : ppuRun n s = .ok () t) : t.ppu.cyc < modeCycles t (ppuMode t) := by
  induction n generalizing s with
  | zero => omega
  | succ n ih =>
    simp only [ppuRun] at h
    split at h
    · split at h
      · cases h
      · next u hu =>
        have hp := modeCycles_pos hd (ppuMode s)
        refine ih ?_ ?_ h
        · rw [ppuTransition_frame hu]
          exact hd
        · rw [ppuTransition_cyc hu]
          omega
    · injection h with _ h
      rw [← h]
      omega

/-- The save flush changes the dirty flag and what the host holds (R122). -/
theorem saveFlush_frame (s : State) :
    saveFlush s = { s with
      ctl := { s.ctl with eramDirty := (saveFlush s).ctl.eramDirty }
      host := { s.host with saveOut := (saveFlush s).host.saveOut } } := by
  unfold saveFlush
  split <;> rfl

/-- The input poll changes the I/O bytes, the host's side and the dirty flag (R392, R391). -/
theorem inputPoll_frame (s : State) :
    inputPoll s = { s with
      mem := { s.mem with io := (inputPoll s).mem.io }
      ctl := { s.ctl with eramDirty := (inputPoll s).ctl.eramDirty }
      host := (inputPoll s).host } := by
  unfold inputPoll
  dsimp only
  have hp : (pollAnswer s).2 = { s with host := (pollAnswer s).2.host } := by
    unfold pollAnswer
    split <;> rfl
  generalize (pollAnswer s).2 = u at hp ⊢
  split
  · rw [saveFlush_frame, hp]
    split <;> rfl
  · rw [hp]
    split <;> rfl

/-- The poll accounting changes the poll counter and what the input poll does (R390). -/
theorem pollAdvance_frame (c : Nat) (s : State) :
    pollAdvance c s = { s with
      mem := { s.mem with io := (pollAdvance c s).mem.io }
      ctl := { s.ctl with eramDirty := (pollAdvance c s).ctl.eramDirty }
      sched := { s.sched with pollAcc := (pollAdvance c s).sched.pollAcc }
      host := (pollAdvance c s).host } := by
  unfold pollAdvance
  dsimp only
  split
  · rw [inputPoll_frame]
    rfl
  · rfl

/-- The periodic flush changes what the save flush does, and the host's list (R122). -/
theorem flushAdvance_frame (s : State) :
    flushAdvance s = { s with
      ctl := { s.ctl with eramDirty := (flushAdvance s).ctl.eramDirty }
      host := { s.host with flushes := (flushAdvance s).host.flushes, saveOut := (flushAdvance s).host.saveOut } } := by
  unfold flushAdvance
  split
  · rfl
  · dsimp only
    split
    · rw [saveFlush_frame]
    · rfl

/-- The boot hand-over changes the program counter and its own bit (R474). -/
theorem bootHandover_frame (s : State) :
    bootHandover s = { s with
      cpu := { s.cpu with pc := (bootHandover s).cpu.pc }
      sched := { s.sched with bootWatch := (bootHandover s).sched.bootWatch } } := by
  unfold bootHandover
  split <;> rfl

/-! ### The step -/

/-- A step that goes on (R390): hand-over, Processor, Pixel Processor, Timer, poll, flush. -/
theorem step_next {s t : State} (h : step s = .next t) :
    s.running ∧ ∃ u v, processorStep (bootHandover s) = .next u ∧ ppuAdvance (u.cpu.cycI >>> speed u) u = .ok () v ∧
      t = flushAdvance (pollAdvance u.cpu.cycI (timerPart u.cpu.cycI v)) := by
  unfold step at h
  split at h
  · cases h
  · next hf =>
    split at h
    · cases h
    · next he =>
      refine ⟨⟨by simpa using hf, by simpa using he⟩, ?_⟩
      unfold iteration closeRun at h
      split at h
      · next w hw =>
        injection h with h
        subst h
        obtain ⟨u, hu, hk⟩ := thenOut_next.mp hw
        unfold devicesAdvance at hk
        split at hk
        · cases hk
        · next v hv =>
          injection hk with hk
          exact ⟨u, v, hu, hv, hk.symm⟩
      · cases h
      · cases h

end Sys2Proof.Machine
end

