-- ==== Sys2Proof/Tests/Slice0.lean ====
section
/-! SUPPORT. The model's own tests: ill-formed terms, decoded words, single steps, and a witness for the hypotheses of
each statement.
The expected values of the steps are the vectors of 95_test_vectors.md, named by their ids; the words are written out
from the encodings of 30_encoding.md and of the instructions' rules. -/

namespace Sys2Proof.Tests

open Sys2Proof.Machine Sys2Proof.Claims

/-! ### Ill-formed terms are refused, one for each operand place of each check -/

theorem test_wf_refuses_f_as_a_register :
    (Instr.incR .f).wf = false ∧ (Instr.decR .f).wf = false ∧ (Instr.ldRD8 .f 0).wf = false ∧
      (Instr.ldRHl .f).wf = false ∧ (Instr.ldHlR .f).wf = false ∧ (Instr.addR .f).wf = false ∧
      (Instr.cpR .f).wf = false ∧ (Instr.rlcR .f).wf = false ∧ (Instr.bitBR 0 .f).wf = false := by decide

theorem test_wf_refuses_f_as_either_register_of_a_load :
    (Instr.ldRR .f .a).wf = false ∧ (Instr.ldRR .a .f).wf = false ∧ (Instr.ldRR .a .a).wf = true := by decide

theorem test_wf_refuses_af_in_rp :
    (Instr.ldRrD16 .af 0).wf = false ∧ (Instr.addHlRr .af).wf = false ∧ (Instr.incRr .af).wf = false ∧
      (Instr.decRr .af).wf = false ∧ (Instr.decRr .sp).wf = true := by decide

theorem test_wf_refuses_sp_in_rp2 :
    (Instr.pushRr .sp).wf = false ∧ (Instr.pushRr .af).wf = true := by decide

theorem test_wf_refuses_sp_and_af_as_pop_pairs :
    (Instr.popRr .sp).wf = false ∧ (Instr.popRr .af).wf = false ∧ (Instr.popRr .hl).wf = true := by decide

/-! ### Every constructor's word, written out from the patterns of 30_encoding.md and of the instruction's rule -/

theorem test_decode_load8 :
    decode [0b01000001] = .instr (.ldRR .b .c) 1 ∧ decode [0b00010110, 0x7F] = .instr (.ldRD8 .d 0x7F) 2 ∧
      decode [0b01111110] = .instr (.ldRHl .a) 1 ∧ decode [0b01110011] = .instr (.ldHlR .e) 1 ∧
      decode [0b00110110, 0xAB] = .instr (.ldHlD8 0xAB) 2 ∧ decode [0b00001010] = .instr .ldABc 1 ∧
      decode [0b00011010] = .instr .ldADe 1 ∧ decode [0b00000010] = .instr .ldBcA 1 ∧
      decode [0b00010010] = .instr .ldDeA 1 ∧ decode [0b11111010, 0x00, 0xC1] = .instr (.ldAA16 0xC100) 3 ∧
      decode [0b11101010, 0x34, 0xC2] = .instr (.ldA16A 0xC234) 3 ∧ decode [0b11110010] = .instr .ldhAC 1 ∧
      decode [0b11100010] = .instr .ldhCA 1 ∧ decode [0b11110000, 0x0F] = .instr (.ldhAA8 0x0F) 2 ∧
      decode [0b11100000, 0x07] = .instr (.ldhA8A 0x07) 2 ∧ decode [0b00101010] = .instr .ldAHli 1 ∧
      decode [0b00111010] = .instr .ldAHld 1 ∧ decode [0b00100010] = .instr .ldHliA 1 ∧
      decode [0b00110010] = .instr .ldHldA 1 := by decide

theorem test_decode_load16 :
    decode [0b00000001, 0x34, 0x12] = .instr (.ldRrD16 .bc 0x1234) 3 ∧
      decode [0b00110001, 0xFE, 0xFF] = .instr (.ldRrD16 .sp 0xFFFE) 3 ∧
      decode [0b11111000, 0x08] = .instr (.ldHlSpE8 0x08) 2 ∧ decode [0b11111001] = .instr .ldSpHl 1 ∧
      decode [0b00001000, 0x00, 0xC1] = .instr (.ldA16Sp 0xC100) 3 ∧ decode [0b11000101] = .instr (.pushRr .bc) 1 ∧
      decode [0b11110101] = .instr (.pushRr .af) 1 ∧ decode [0b11010001] = .instr (.popRr .de) 1 ∧
      decode [0b11110001] = .instr .popAf 1 := by decide

theorem test_decode_add_and_subtract :
    decode [0b10000000] = .instr (.addR .b) 1 ∧ decode [0b10000110] = .instr .addHl 1 ∧
      decode [0b11000110, 0xFF] = .instr (.addD8 0xFF) 2 ∧ decode [0b10001011] = .instr (.adcR .e) 1 ∧
      decode [0b10001110] = .instr .adcHl 1 ∧ decode [0b11001110, 0xFF] = .instr (.adcD8 0xFF) 2 ∧
      decode [0b10010000] = .instr (.subR .b) 1 ∧ decode [0b10010110] = .instr .subHl 1 ∧
      decode [0b11010110, 0x40] = .instr (.subD8 0x40) 2 ∧ decode [0b10011100] = .instr (.sbcR .h) 1 ∧
      decode [0b10011110] = .instr .sbcHl 1 ∧ decode [0b11011110, 0x0F] = .instr (.sbcD8 0x0F) 2 := by decide

theorem test_decode_logic_and_compare :
    decode [0b10100000] = .instr (.andR .b) 1 ∧ decode [0b10100110] = .instr .andHl 1 ∧
      decode [0b11100110, 0x0F] = .instr (.andD8 0x0F) 2 ∧ decode [0b10101111] = .instr (.xorR .a) 1 ∧
      decode [0b10101110] = .instr .xorHl 1 ∧ decode [0b11101110, 0x0F] = .instr (.xorD8 0x0F) 2 ∧
      decode [0b10110001] = .instr (.orR .c) 1 ∧ decode [0b10110110] = .instr .orHl 1 ∧
      decode [0b11110110, 0x03] = .instr (.orD8 0x03) 2 ∧ decode [0b10111101] = .instr (.cpR .l) 1 ∧
      decode [0b10111110] = .instr .cpHl 1 ∧ decode [0b11111110, 0x90] = .instr (.cpD8 0x90) 2 := by decide

theorem test_decode_increment_and_adjust :
    decode [0b00000100] = .instr (.incR .b) 1 ∧ decode [0b00110100] = .instr .incHl 1 ∧
      decode [0b00101101] = .instr (.decR .l) 1 ∧ decode [0b00110101] = .instr .decHl 1 ∧
      decode [0b00100111] = .instr .daa 1 ∧ decode [0b00101111] = .instr .cpl 1 ∧ decode [0b00110111] = .instr .scf 1 ∧
      decode [0b00111111] = .instr .ccf 1 ∧ decode [0b00011001] = .instr (.addHlRr .de) 1 ∧
      decode [0b11101000, 0x02] = .instr (.addSpE8 0x02) 2 ∧ decode [0b00110011] = .instr (.incRr .sp) 1 ∧
      decode [0b00101011] = .instr (.decRr .hl) 1 := by decide

theorem test_decode_rotates :
    decode [0b00000111] = .instr .rlca 1 ∧ decode [0b00001111] = .instr .rrca 1 ∧ decode [0b00010111] = .instr .rla 1 ∧
      decode [0b00011111] = .instr .rra 1 ∧ decode [0b11001011, 0b00000000] = .instr (.rlcR .b) 2 ∧
      decode [0b11001011, 0b00000110] = .instr .rlcHl 2 ∧ decode [0b11001011, 0b00001001] = .instr (.rrcR .c) 2 ∧
      decode [0b11001011, 0b00001110] = .instr .rrcHl 2 ∧ decode [0b11001011, 0b00010010] = .instr (.rlR .d) 2 ∧
      decode [0b11001011, 0b00010110] = .instr .rlHl 2 ∧ decode [0b11001011, 0b00011011] = .instr (.rrR .e) 2 ∧
      decode [0b11001011, 0b00011110] = .instr .rrHl 2 ∧ decode [0b11001011, 0b00100100] = .instr (.slaR .h) 2 ∧
      decode [0b11001011, 0b00100110] = .instr .slaHl 2 ∧ decode [0b11001011, 0b00101101] = .instr (.sraR .l) 2 ∧
      decode [0b11001011, 0b00101110] = .instr .sraHl 2 ∧ decode [0b11001011, 0b00110111] = .instr (.swapR .a) 2 ∧
      decode [0b11001011, 0b00110110] = .instr .swapHl 2 ∧ decode [0b11001011, 0b00111111] = .instr (.srlR .a) 2 ∧
      decode [0b11001011, 0b00111110] = .instr .srlHl 2 := by decide

theorem test_decode_bits :
    decode [0b11001011, 0b01111111] = .instr (.bitBR 7 .a) 2 ∧ decode [0b11001011, 0b01110110] = .instr (.bitBHl 6) 2 ∧
      decode [0b11001011, 0b10000111] = .instr (.resBR 0 .a) 2 ∧
        decode [0b11001011, 0b10111110] = .instr (.resBHl 7) 2 ∧
      decode [0b11001011, 0b11011000] = .instr (.setBR 3 .b) 2 ∧
        decode [0b11001011, 0b11000110] = .instr (.setBHl 0) 2 ∧
      decode [0b11001011, 0b11001011] = .instr (.setBR 1 .e) 2 ∧ decode [0b11001011] = .instr .prefixCb 1 := by decide

theorem test_decode_control :
    decode [0b11000011, 0x50, 0x01] = .instr (.jpA16 0x0150) 3 ∧
      decode [0b11000010, 0x00, 0x40] = .instr (.jpCcA16 .nz 0x4000) 3 ∧ decode [0b11101001] = .instr .jpHl 1 ∧
      decode [0b00011000, 0xFE] = .instr (.jrE8 0xFE) 2 ∧ decode [0b00101000, 0x10] = .instr (.jrCcE8 .z 0x10) 2 ∧
      decode [0b11001101, 0x00, 0x30] = .instr (.callA16 0x3000) 3 ∧
      decode [0b11010100, 0x00, 0x30] = .instr (.callCcA16 .nc 0x3000) 3 ∧ decode [0b11001001] = .instr .ret 1 ∧
      decode [0b11011000] = .instr (.retCc .c) 1 ∧ decode [0b11011001] = .instr .reti 1 ∧
      decode [0b11101111] = .instr (.rstN 5) 1 := by decide

theorem test_decode_system :
    decode [0b00000000] = .instr .nop 1 ∧ decode [0b01110110] = .instr .halt 1 ∧
      decode [0b00010000, 0x00] = .instr (.stop 0x00) 2 ∧ decode [0b11110011] = .instr .di 1 ∧
      decode [0b11111011] = .instr .ei 1 := by decide

theorem test_decode_undefined :
    decode [0xD3] = .instr .undefinedD3 1 ∧ decode [0xDB] = .instr .undefinedDB 1 ∧
      decode [0xDD] = .instr .undefinedDD 1 ∧
      decode [0xE3] = .instr .undefinedE3 1 ∧ decode [0xE4] = .instr .undefinedE4 1 ∧
      decode [0xEB] = .instr .undefinedEB 1 ∧ decode [0xEC] = .instr .undefinedEC 1 ∧
      decode [0xED] = .instr .undefinedED 1 ∧ decode [0xF4] = .instr .undefinedF4 1 ∧
      decode [0xFC] = .instr .undefinedFC 1 ∧ decode [0xFD] = .instr .undefinedFD 1 := by decide

/-- What is no whole instruction is rejected by name. -/
theorem test_decode_rejects_short_words :
    decode [] = .rejected .noBytes ∧ decode [0x3E] = .rejected (.truncated 0x3E 2) ∧
      decode [0xC3, 0x50] = .rejected (.truncated 0xC3 3) := by
  decide

/-- A word of the opcode table, stored where the next step fetches, is what it runs: `LD A,0x5A`,
then as the spec's row. -/
theorem test_withFetchWord_runs_the_word :
    (match step (State.reset.withFetchWord 16 (0x3E + 0x5A * 256)) with
      | .next t => some (t.cpu.a, t.cpu.pc, t.cpu.cycI)
      | .fault _ => none
      | .refused _ => none) = some (0x5A, 0x0102, 8) := by decide


/-! ### Single steps (Part 2 of 95_test_vectors.md, from its baseline state) -/

/-- Registers with the given numbers (`A F B C D E H L SP pc`), the control flags clear, the step's cost the total. -/
def cpuOf (a f b c d e h l sp pc cost : Nat) : Cpu :=
  { a := BitVec.ofNat 8 a, flags := ⟨f.testBit 7, f.testBit 6, f.testBit 5, f.testBit 4⟩, b := BitVec.ofNat 8 b
    c := BitVec.ofNat 8 c, d := BitVec.ofNat 8 d, e := BitVec.ofNat 8 e, h := BitVec.ofNat 8 h, l := BitVec.ofNat 8 l
    sp := BitVec.ofNat 16 sp, pc := BitVec.ofNat 16 pc, ime := false, imePending := false, halt := false, stop := false
    cycI := cost, cycT := cost }

/-- The state with the given bytes, those of the I/O window as stored bytes without a side effect. -/
def poked : List (Nat × Nat) → State → State
  | [], s => s
  | (addr, v) :: rest, s =>
    poked rest (if 0xFF00 ≤ addr ∧ addr < 0xFF80 then setIo (addr - 0xFF00) (BitVec.ofNat 8 v) s
      else pokeBytes (BitVec.ofNat 16 addr) [BitVec.ofNat 8 v] s)

/-- The reset state with the given registers, bytes, and code at `pc`. -/
def ready (regs : Cpu) (bytes : List (Nat × Nat)) (code : List Byte) : State :=
  pokeBytes regs.pc code (poked bytes { State.reset with cpu := regs })

/-- The registers after one Processor step, and the bytes at the watched addresses. -/
def ran (regs : Cpu) (bytes : List (Nat × Nat)) (code : List Byte) (watched : List Word) :
    Option (Cpu × List (Option Byte)) :=
  match processorStep (ready regs bytes code) with
  | .next t => some (t.cpu, watched.map (readByte t))
  | .fault _ => none
  | .refused _ => none

/-- L1, R170: `LD B,C`. -/
theorem test_L1_LD_B_C :
    ran (cpuOf 0 0 0 0x5A 0 0 0 0 0xD000 0xC000 0) []
      [0x41] [] =
      some ((cpuOf 0 0 0x5A 0x5A 0 0 0 0 0xD000 0xC001 4), []) := by
  decide

/-- L4, R171: `LD D,0x7F`. -/
theorem test_L4_LD_D_0x7F :
    ran (cpuOf 0 0 0 0 0 0 0 0 0xD000 0xC000 0) []
      [0x16, 0x7F] [] =
      some ((cpuOf 0 0 0 0 0x7F 0 0 0 0xD000 0xC002 8), []) := by
  decide

/-- L5, R172: `LD A,(HL)`. -/
theorem test_L5_LD_A_HL :
    ran (cpuOf 0 0 0 0 0 0 0xC1 0 0xD000 0xC000 0) [(0xC100, 0x3C)]
      [0x7E] [] =
      some ((cpuOf 0x3C 0 0 0 0 0 0xC1 0 0xD000 0xC001 8), []) := by
  decide

/-- L6, R173: `LD (HL),E`. -/
theorem test_L6_LD_HL_E :
    ran (cpuOf 0 0 0 0 0 0x77 0xC1 0x23 0xD000 0xC000 0) []
      [0x73] [0xC123] =
      some ((cpuOf 0 0 0 0 0 0x77 0xC1 0x23 0xD000 0xC001 8), [some 0x77]) := by
  decide

/-- L7, R173: `LD (HL),H`. -/
theorem test_L7_LD_HL_H :
    ran (cpuOf 0 0 0 0 0 0 0xC1 0x23 0xD000 0xC000 0) []
      [0x74] [0xC123] =
      some ((cpuOf 0 0 0 0 0 0 0xC1 0x23 0xD000 0xC001 8), [some 0xC1]) := by
  decide

/-- L8, R174: `LD (HL),0xAB`. -/
theorem test_L8_LD_HL_0xAB :
    ran (cpuOf 0 0 0 0 0 0 0xFF 0x80 0xD000 0xC000 0) []
      [0x36, 0xAB] [0xFF80] =
      some ((cpuOf 0 0 0 0 0 0 0xFF 0x80 0xD000 0xC002 12), [some 0xAB]) := by
  decide

/-- L9, R175: `LD A,(BC)`. -/
theorem test_L9_LD_A_BC :
    ran (cpuOf 0 0 0xC1 0x50 0 0 0 0 0xD000 0xC000 0) [(0xC150, 0xC3)]
      [0x0A] [] =
      some ((cpuOf 0xC3 0 0xC1 0x50 0 0 0 0 0xD000 0xC001 8), []) := by
  decide

/-- L10, R176: `LD A,(DE)`. -/
theorem test_L10_LD_A_DE :
    ran (cpuOf 0 0 0 0 0xC0 0x10 0 0 0xD000 0xC000 0) [(0xC010, 0x01)]
      [0x1A] [] =
      some ((cpuOf 0x01 0 0 0 0xC0 0x10 0 0 0xD000 0xC001 8), []) := by
  decide

/-- L11, R177: `LD (BC),A`. -/
theorem test_L11_LD_BC_A :
    ran (cpuOf 0x42 0 0xC1 0 0 0 0 0 0xD000 0xC000 0) []
      [0x02] [0xC100] =
      some ((cpuOf 0x42 0 0xC1 0 0 0 0 0 0xD000 0xC001 8), [some 0x42]) := by
  decide

/-- L12, R178: `LD (DE),A`. -/
theorem test_L12_LD_DE_A :
    ran (cpuOf 0xFF 0 0 0 0x80 0 0 0 0xD000 0xC000 0) []
      [0x12] [0x8000] =
      some ((cpuOf 0xFF 0 0 0 0x80 0 0 0 0xD000 0xC001 8), [some 0xFF]) := by
  decide

/-- L13, R185: `LD A,(HL+)`. -/
theorem test_L13_LD_A_HL :
    ran (cpuOf 0 0 0 0 0 0 0xC0 0xFF 0xD000 0xC000 0) [(0xC0FF, 0x09)]
      [0x2A] [] =
      some ((cpuOf 0x09 0 0 0 0 0 0xC1 0 0xD000 0xC001 8), []) := by
  decide

/-- L15, R186: `LD A,(HL-)`. -/
theorem test_L15_LD_A_HL :
    ran (cpuOf 0 0 0 0 0 0 0xC1 0 0xD000 0xC000 0) [(0xC100, 0x10)]
      [0x3A] [] =
      some ((cpuOf 0x10 0 0 0 0 0 0xC0 0xFF 0xD000 0xC001 8), []) := by
  decide

/-- L17, R187: `LD (HL+),A`. -/
theorem test_L17_LD_HL_A :
    ran (cpuOf 0x5C 0 0 0 0 0 0x98 0 0xD000 0xC000 0) []
      [0x22] [0x9800] =
      some ((cpuOf 0x5C 0 0 0 0 0 0x98 0x01 0xD000 0xC001 8), [some 0x5C]) := by
  decide

/-- L18, R188: `LD (HL-),A`. -/
theorem test_L18_LD_HL_A :
    ran (cpuOf 0x5D 0 0 0 0 0 0x9F 0xFF 0xD000 0xC000 0) []
      [0x32] [0x9FFF] =
      some ((cpuOf 0x5D 0 0 0 0 0 0x9F 0xFE 0xD000 0xC001 8), [some 0x5D]) := by
  decide

/-- L19, R179: `LD A,(0xC100)`. -/
theorem test_L19_LD_A_0xC100 :
    ran (cpuOf 0 0 0 0 0 0 0 0 0xD000 0xC000 0) [(0xC100, 0x99)]
      [0xFA, 0x00, 0xC1] [] =
      some ((cpuOf 0x99 0 0 0 0 0 0 0 0xD000 0xC003 16), []) := by
  decide

/-- L20, R180: `LD (0xC234),A`. -/
theorem test_L20_LD_0xC234_A :
    ran (cpuOf 0x66 0 0 0 0 0 0 0 0xD000 0xC000 0) []
      [0xEA, 0x34, 0xC2] [0xC234] =
      some ((cpuOf 0x66 0 0 0 0 0 0 0 0xD000 0xC003 16), [some 0x66]) := by
  decide

/-- L21, R181: `LDH A,(C)`. -/
theorem test_L21_LDH_A_C :
    ran (cpuOf 0 0 0 0x80 0 0 0 0 0xD000 0xC000 0) [(0xFF80, 0x4E)]
      [0xF2] [] =
      some ((cpuOf 0x4E 0 0 0x80 0 0 0 0 0xD000 0xC001 8), []) := by
  decide

/-- L22, R182: `LDH (C),A`. -/
theorem test_L22_LDH_C_A :
    ran (cpuOf 0xE4 0 0 0x47 0 0 0 0 0xD000 0xC000 0) []
      [0xE2] [0xFF47] =
      some ((cpuOf 0xE4 0 0 0x47 0 0 0 0 0xD000 0xC001 8), [some 0xE4]) := by
  decide

/-- L27, R183: `LDH A,(0x00)`. -/
theorem test_L27_LDH_A_0x00 :
    ran (cpuOf 0 0 0 0 0 0 0 0 0xD000 0xC000 0) []
      [0xF0, 0x00] [] =
      some ((cpuOf 0xCF 0 0 0 0 0 0 0 0xD000 0xC002 12), []) := by
  decide

/-- L24, R184: `LDH (0x07),A`. -/
theorem test_L24_LDH_0x07_A :
    ran (cpuOf 0x05 0 0 0 0 0 0 0 0xD000 0xC000 0) []
      [0xE0, 0x07] [0xFF07] =
      some ((cpuOf 0x05 0 0 0 0 0 0 0 0xD000 0xC002 12), [some 0x05]) := by
  decide

/-- W1, R202: `LD BC,0x1234`. -/
theorem test_W1_LD_BC_0x1234 :
    ran (cpuOf 0 0 0 0 0 0 0 0 0xD000 0xC000 0) []
      [0x01, 0x34, 0x12] [] =
      some ((cpuOf 0 0 0x12 0x34 0 0 0 0 0xD000 0xC003 12), []) := by
  decide

/-- W4, R203: `LD HL,SP+8`. -/
theorem test_W4_LD_HL_SP_8 :
    ran (cpuOf 0 0xC0 0 0 0 0 0 0 0xFFF8 0xC000 0) []
      [0xF8, 0x08] [] =
      some ((cpuOf 0 0x30 0 0 0 0 0 0 0xFFF8 0xC002 12), []) := by
  decide

/-- W6, R203: `LD HL,SP-1`. -/
theorem test_W6_LD_HL_SP_1 :
    ran (cpuOf 0 0 0 0 0 0 0 0 0x0001 0xC000 0) []
      [0xF8, 0xFF] [] =
      some ((cpuOf 0 0x30 0 0 0 0 0 0 0x0001 0xC002 12), []) := by
  decide

/-- W7, R204: `LD SP,HL`. -/
theorem test_W7_LD_SP_HL :
    ran (cpuOf 0 0 0 0 0 0 0xDF 0xFF 0xD000 0xC000 0) []
      [0xF9] [] =
      some ((cpuOf 0 0 0 0 0 0 0xDF 0xFF 0xDFFF 0xC001 8), []) := by
  decide

/-- W8, R208: `LD (0xC100),SP`. -/
theorem test_W8_LD_0xC100_SP :
    ran (cpuOf 0 0 0 0 0 0 0 0 0xFFF8 0xC000 0) []
      [0x08, 0x00, 0xC1] [0xC100, 0xC101] =
      some ((cpuOf 0 0 0 0 0 0 0 0 0xFFF8 0xC003 20), [some 0xF8, some 0xFF]) := by
  decide

/-- W10, R207: `PUSH AF`. -/
theorem test_W10_PUSH_AF :
    ran (cpuOf 0x9C 0x50 0 0 0 0 0 0 0xD000 0xC000 0) []
      [0xF5] [0xCFFF, 0xCFFE] =
      some ((cpuOf 0x9C 0x50 0 0 0 0 0 0 0xCFFE 0xC001 16), [some 0x9C, some 0x50]) := by
  decide

/-- W11, R207: `PUSH BC`. -/
theorem test_W11_PUSH_BC :
    ran (cpuOf 0 0 0x12 0x34 0 0 0 0 0x0001 0xC000 0) []
      [0xC5] [0xFFFF, 0x0000] =
      some ((cpuOf 0 0 0x12 0x34 0 0 0 0 0xFFFF 0xC001 16), [some 0x34, some 0x00]) := by
  decide

/-- W14, R206: `POP HL`. -/
theorem test_W14_POP_HL :
    ran (cpuOf 0 0 0 0 0 0 0 0 0xFFFE 0xC000 0) [(0xFFFF, 0xAB), (0xFFFE, 0xCD)]
      [0xE1] [] =
      some ((cpuOf 0 0 0 0 0 0 0xAB 0xCD 0x0000 0xC001 12), []) := by
  decide

/-- W13, R205: `POP AF`. -/
theorem test_W13_POP_AF :
    ran (cpuOf 0 0 0 0 0 0 0 0 0xC100 0xC000 0) [(0xC100, 0xFF), (0xC101, 0x12)]
      [0xF1] [] =
      some ((cpuOf 0x12 0xF0 0 0 0 0 0 0 0xC102 0xC001 12), []) := by
  decide

/-- A1, R216: `ADD A,B`. -/
theorem test_A1_ADD_A_B :
    ran (cpuOf 0x3A 0 0xC6 0 0 0 0 0 0xD000 0xC000 0) []
      [0x80] [] =
      some ((cpuOf 0 0xB0 0xC6 0 0 0 0 0 0xD000 0xC001 4), []) := by
  decide

/-- A4, R217: `ADD A,(HL)`. -/
theorem test_A4_ADD_A_HL :
    ran (cpuOf 0x7F 0 0 0 0 0 0xC1 0 0xD000 0xC000 0) [(0xC100, 0x01)]
      [0x86] [] =
      some ((cpuOf 0x80 0x20 0 0 0 0 0xC1 0 0xD000 0xC001 8), []) := by
  decide

/-- A5, R218: `ADD A,0xFF`. -/
theorem test_A5_ADD_A_0xFF :
    ran (cpuOf 0x01 0 0 0 0 0 0 0 0xD000 0xC000 0) []
      [0xC6, 0xFF] [] =
      some ((cpuOf 0 0xB0 0 0 0 0 0 0 0xD000 0xC002 8), []) := by
  decide

/-- A8, R219: `ADC A,B`. -/
theorem test_A8_ADC_A_B :
    ran (cpuOf 0x0F 0x10 0xF0 0 0 0 0 0 0xD000 0xC000 0) []
      [0x88] [] =
      some ((cpuOf 0 0xB0 0xF0 0 0 0 0 0 0xD000 0xC001 4), []) := by
  decide

/-- A9, R221: `ADC A,0xFF`. -/
theorem test_A9_ADC_A_0xFF :
    ran (cpuOf 0 0x10 0 0 0 0 0 0 0xD000 0xC000 0) []
      [0xCE, 0xFF] [] =
      some ((cpuOf 0 0xB0 0 0 0 0 0 0 0xD000 0xC002 8), []) := by
  decide

/-- A10, R220: `ADC A,(HL)`. -/
theorem test_A10_ADC_A_HL :
    ran (cpuOf 0x10 0 0 0 0 0 0xC1 0 0xD000 0xC000 0) [(0xC100, 0x22)]
      [0x8E] [] =
      some ((cpuOf 0x32 0 0 0 0 0 0xC1 0 0xD000 0xC001 8), []) := by
  decide

/-- A12, R222: `SUB B`. -/
theorem test_A12_SUB_B :
    ran (cpuOf 0x3E 0 0x0F 0 0 0 0 0 0xD000 0xC000 0) []
      [0x90] [] =
      some ((cpuOf 0x2F 0x60 0x0F 0 0 0 0 0 0xD000 0xC001 4), []) := by
  decide

/-- A13, R224: `SUB 0x40`. -/
theorem test_A13_SUB_0x40 :
    ran (cpuOf 0x3E 0 0 0 0 0 0 0 0xD000 0xC000 0) []
      [0xD6, 0x40] [] =
      some ((cpuOf 0xFE 0x50 0 0 0 0 0 0 0xD000 0xC002 8), []) := by
  decide

/-- A15, R223: `SUB (HL)`. -/
theorem test_A15_SUB_HL :
    ran (cpuOf 0 0 0 0 0 0 0xC1 0 0xD000 0xC000 0) [(0xC100, 0x01)]
      [0x96] [] =
      some ((cpuOf 0xFF 0x70 0 0 0 0 0xC1 0 0xD000 0xC001 8), []) := by
  decide

/-- A20, R225: `SBC A,A`. -/
theorem test_A20_SBC_A_A :
    ran (cpuOf 0x77 0x10 0 0 0 0 0 0 0xD000 0xC000 0) []
      [0x9F] [] =
      some ((cpuOf 0xFF 0x70 0 0 0 0 0 0 0xD000 0xC001 4), []) := by
  decide

/-- A19, R227: `SBC A,0x0F`. -/
theorem test_A19_SBC_A_0x0F :
    ran (cpuOf 0x10 0x10 0 0 0 0 0 0 0xD000 0xC000 0) []
      [0xDE, 0x0F] [] =
      some ((cpuOf 0 0xE0 0 0 0 0 0 0 0xD000 0xC002 8), []) := by
  decide

/-- A21, R228: `AND B`. -/
theorem test_A21_AND_B :
    ran (cpuOf 0x5A 0 0x3F 0 0 0 0 0 0xD000 0xC000 0) []
      [0xA0] [] =
      some ((cpuOf 0x1A 0x20 0x3F 0 0 0 0 0 0xD000 0xC001 4), []) := by
  decide

/-- A22, R230: `AND 0x0F`. -/
theorem test_A22_AND_0x0F :
    ran (cpuOf 0xF0 0x10 0 0 0 0 0 0 0xD000 0xC000 0) []
      [0xE6, 0x0F] [] =
      some ((cpuOf 0 0xA0 0 0 0 0 0 0 0xD000 0xC002 8), []) := by
  decide

/-- A24, R231: `XOR A`. -/
theorem test_A24_XOR_A :
    ran (cpuOf 0x9D 0x70 0 0 0 0 0 0 0xD000 0xC000 0) []
      [0xAF] [] =
      some ((cpuOf 0 0x80 0 0 0 0 0 0 0xD000 0xC001 4), []) := by
  decide

/-- A25, R232: `XOR (HL)`. -/
theorem test_A25_XOR_HL :
    ran (cpuOf 0xFF 0 0 0 0 0 0xC1 0 0xD000 0xC000 0) [(0xC100, 0x0F)]
      [0xAE] [] =
      some ((cpuOf 0xF0 0 0 0 0 0 0xC1 0 0xD000 0xC001 8), []) := by
  decide

/-- A26, R234: `OR C`. -/
theorem test_A26_OR_C :
    ran (cpuOf 0x5A 0 0 0x0F 0 0 0 0 0xD000 0xC000 0) []
      [0xB1] [] =
      some ((cpuOf 0x5F 0 0 0x0F 0 0 0 0 0xD000 0xC001 4), []) := by
  decide

/-- A27, R236: `OR 0x00`. -/
theorem test_A27_OR_0x00 :
    ran (cpuOf 0 0x70 0 0 0 0 0 0 0xD000 0xC000 0) []
      [0xF6, 0x00] [] =
      some ((cpuOf 0 0x80 0 0 0 0 0 0 0xD000 0xC002 8), []) := by
  decide

/-- A28, R237: `CP B`. -/
theorem test_A28_CP_B :
    ran (cpuOf 0x3C 0 0x2F 0 0 0 0 0 0xD000 0xC000 0) []
      [0xB8] [] =
      some ((cpuOf 0x3C 0x60 0x2F 0 0 0 0 0 0xD000 0xC001 4), []) := by
  decide

/-- A29, R239: `CP 0x3C`. -/
theorem test_A29_CP_0x3C :
    ran (cpuOf 0x3C 0 0 0 0 0 0 0 0xD000 0xC000 0) []
      [0xFE, 0x3C] [] =
      some ((cpuOf 0x3C 0xC0 0 0 0 0 0 0 0xD000 0xC002 8), []) := by
  decide

/-- A30, R238: `CP (HL)`. -/
theorem test_A30_CP_HL :
    ran (cpuOf 0x3C 0 0 0 0 0 0xC1 0 0xD000 0xC000 0) [(0xC100, 0x40)]
      [0xBE] [] =
      some ((cpuOf 0x3C 0x50 0 0 0 0 0xC1 0 0xD000 0xC001 8), []) := by
  decide

/-- A31, R240: `INC B`. -/
theorem test_A31_INC_B :
    ran (cpuOf 0 0x10 0xFF 0 0 0 0 0 0xD000 0xC000 0) []
      [0x04] [] =
      some ((cpuOf 0 0xB0 0 0 0 0 0 0 0xD000 0xC001 4), []) := by
  decide

/-- A33, R241: `INC (HL)`. -/
theorem test_A33_INC_HL :
    ran (cpuOf 0 0 0 0 0 0 0xC1 0 0xD000 0xC000 0) [(0xC100, 0x7F)]
      [0x34] [0xC100] =
      some ((cpuOf 0 0x20 0 0 0 0 0xC1 0 0xD000 0xC001 12), [some 0x80]) := by
  decide

/-- A34, R242: `DEC B`. -/
theorem test_A34_DEC_B :
    ran (cpuOf 0 0 0x01 0 0 0 0 0 0xD000 0xC000 0) []
      [0x05] [] =
      some ((cpuOf 0 0xC0 0 0 0 0 0 0 0xD000 0xC001 4), []) := by
  decide

/-- A36, R243: `DEC (HL)`. -/
theorem test_A36_DEC_HL :
    ran (cpuOf 0 0 0 0 0 0 0xC1 0 0xD000 0xC000 0) [(0xC100, 0x10)]
      [0x35] [0xC100] =
      some ((cpuOf 0 0x60 0 0 0 0 0xC1 0 0xD000 0xC001 12), [some 0x0F]) := by
  decide

/-- A37, R244: `DAA`. -/
theorem test_A37_DAA :
    ran (cpuOf 0x7D 0 0 0 0 0 0 0 0xD000 0xC000 0) []
      [0x27] [] =
      some ((cpuOf 0x83 0 0 0 0 0 0 0 0xD000 0xC001 4), []) := by
  decide

/-- A48, R245: `CPL`. -/
theorem test_A48_CPL :
    ran (cpuOf 0x35 0x80 0 0 0 0 0 0 0xD000 0xC000 0) []
      [0x2F] [] =
      some ((cpuOf 0xCA 0xE0 0 0 0 0 0 0 0xD000 0xC001 4), []) := by
  decide

/-- A49, R246: `SCF`. -/
theorem test_A49_SCF :
    ran (cpuOf 0 0xE0 0 0 0 0 0 0 0xD000 0xC000 0) []
      [0x37] [] =
      some ((cpuOf 0 0x90 0 0 0 0 0 0 0xD000 0xC001 4), []) := by
  decide

/-- A50, R247: `CCF`. -/
theorem test_A50_CCF :
    ran (cpuOf 0 0xF0 0 0 0 0 0 0 0xD000 0xC000 0) []
      [0x3F] [] =
      some ((cpuOf 0 0x80 0 0 0 0 0 0 0xD000 0xC001 4), []) := by
  decide

/-- X1, R260: `ADD HL,BC`. -/
theorem test_X1_ADD_HL_BC :
    ran (cpuOf 0 0x80 0x06 0x05 0 0 0x8A 0x23 0xD000 0xC000 0) []
      [0x09] [] =
      some ((cpuOf 0 0xA0 0x06 0x05 0 0 0x90 0x28 0xD000 0xC001 8), []) := by
  decide

/-- X5, R261: `ADD SP,+2`. -/
theorem test_X5_ADD_SP_2 :
    ran (cpuOf 0 0xF0 0 0 0 0 0 0 0xFFF8 0xC000 0) []
      [0xE8, 0x02] [] =
      some ((cpuOf 0 0 0 0 0 0 0 0 0xFFFA 0xC002 16), []) := by
  decide

/-- X10, R262: `INC DE`. -/
theorem test_X10_INC_DE :
    ran (cpuOf 0 0 0 0 0 0xFF 0 0 0xD000 0xC000 0) []
      [0x13] [] =
      some ((cpuOf 0 0 0 0 0x01 0 0 0 0xD000 0xC001 8), []) := by
  decide

/-- X11, R263: `DEC SP`. -/
theorem test_X11_DEC_SP :
    ran (cpuOf 0 0 0 0 0 0 0 0 0x0000 0xC000 0) []
      [0x3B] [] =
      some ((cpuOf 0 0 0 0 0 0 0 0 0xFFFF 0xC001 8), []) := by
  decide

/-- K1, R270: `RLCA`. -/
theorem test_K1_RLCA :
    ran (cpuOf 0x85 0 0 0 0 0 0 0 0xD000 0xC000 0) []
      [0x07] [] =
      some ((cpuOf 0x0B 0x10 0 0 0 0 0 0 0xD000 0xC001 4), []) := by
  decide

/-- K3, R271: `RRCA`. -/
theorem test_K3_RRCA :
    ran (cpuOf 0x3B 0 0 0 0 0 0 0 0xD000 0xC000 0) []
      [0x0F] [] =
      some ((cpuOf 0x9D 0x10 0 0 0 0 0 0 0xD000 0xC001 4), []) := by
  decide

/-- K4, R272: `RLA`. -/
theorem test_K4_RLA :
    ran (cpuOf 0x95 0x10 0 0 0 0 0 0 0xD000 0xC000 0) []
      [0x17] [] =
      some ((cpuOf 0x2B 0x10 0 0 0 0 0 0 0xD000 0xC001 4), []) := by
  decide

/-- K6, R273: `RRA`. -/
theorem test_K6_RRA :
    ran (cpuOf 0x81 0 0 0 0 0 0 0 0xD000 0xC000 0) []
      [0x1F] [] =
      some ((cpuOf 0x40 0x10 0 0 0 0 0 0 0xD000 0xC001 4), []) := by
  decide

/-- K8, R275: `RLC B`. -/
theorem test_K8_RLC_B :
    ran (cpuOf 0 0 0x85 0 0 0 0 0 0xD000 0xC000 0) []
      [0xCB, 0x00] [] =
      some ((cpuOf 0 0x10 0x0B 0 0 0 0 0 0xD000 0xC002 8), []) := by
  decide

/-- K10, R277: `RRC C`. -/
theorem test_K10_RRC_C :
    ran (cpuOf 0 0 0 0x01 0 0 0 0 0xD000 0xC000 0) []
      [0xCB, 0x09] [] =
      some ((cpuOf 0 0x10 0 0x80 0 0 0 0 0xD000 0xC002 8), []) := by
  decide

/-- K11, R279: `RL D`. -/
theorem test_K11_RL_D :
    ran (cpuOf 0 0 0 0 0x80 0 0 0 0xD000 0xC000 0) []
      [0xCB, 0x12] [] =
      some ((cpuOf 0 0x90 0 0 0 0 0 0 0xD000 0xC002 8), []) := by
  decide

/-- K13, R281: `RR E`. -/
theorem test_K13_RR_E :
    ran (cpuOf 0 0 0 0 0 0x01 0 0 0xD000 0xC000 0) []
      [0xCB, 0x1B] [] =
      some ((cpuOf 0 0x90 0 0 0 0 0 0 0xD000 0xC002 8), []) := by
  decide

/-- K15, R283: `SLA H`. -/
theorem test_K15_SLA_H :
    ran (cpuOf 0 0 0 0 0 0 0x80 0 0xD000 0xC000 0) []
      [0xCB, 0x24] [] =
      some ((cpuOf 0 0x90 0 0 0 0 0 0 0xD000 0xC002 8), []) := by
  decide

/-- K17, R285: `SRA L`. -/
theorem test_K17_SRA_L :
    ran (cpuOf 0 0 0 0 0 0 0 0x8A 0xD000 0xC000 0) []
      [0xCB, 0x2D] [] =
      some ((cpuOf 0 0 0 0 0 0 0 0xC5 0xD000 0xC002 8), []) := by
  decide

/-- K20, R287: `SWAP A`. -/
theorem test_K20_SWAP_A :
    ran (cpuOf 0xF1 0x10 0 0 0 0 0 0 0xD000 0xC000 0) []
      [0xCB, 0x37] [] =
      some ((cpuOf 0x1F 0 0 0 0 0 0 0 0xD000 0xC002 8), []) := by
  decide

/-- K22, R289: `SRL A`. -/
theorem test_K22_SRL_A :
    ran (cpuOf 0x01 0 0 0 0 0 0 0 0xD000 0xC000 0) []
      [0xCB, 0x3F] [] =
      some ((cpuOf 0 0x90 0 0 0 0 0 0 0xD000 0xC002 8), []) := by
  decide

/-- K24, R276: `RLC (HL)`. -/
theorem test_K24_RLC_HL :
    ran (cpuOf 0 0 0 0 0 0 0xC1 0 0xD000 0xC000 0) [(0xC100, 0x85)]
      [0xCB, 0x06] [0xC100] =
      some ((cpuOf 0 0x10 0 0 0 0 0xC1 0 0xD000 0xC002 16), [some 0x0B]) := by
  decide

/-- K25, R280: `RL (HL)`. -/
theorem test_K25_RL_HL :
    ran (cpuOf 0 0x10 0 0 0 0 0xC1 0 0xD000 0xC000 0) [(0xC100, 0x11)]
      [0xCB, 0x16] [0xC100] =
      some ((cpuOf 0 0 0 0 0 0 0xC1 0 0xD000 0xC002 16), [some 0x23]) := by
  decide

/-- K26, R288: `SWAP (HL)`. -/
theorem test_K26_SWAP_HL :
    ran (cpuOf 0 0 0 0 0 0 0xC1 0 0xD000 0xC000 0) [(0xC100, 0xA5)]
      [0xCB, 0x36] [0xC100] =
      some ((cpuOf 0 0 0 0 0 0 0xC1 0 0xD000 0xC002 16), [some 0x5A]) := by
  decide

/-- K27, R290: `SRL (HL)`. -/
theorem test_K27_SRL_HL :
    ran (cpuOf 0 0 0 0 0 0 0xC1 0 0xD000 0xC000 0) [(0xC100, 0xFF)]
      [0xCB, 0x3E] [0xC100] =
      some ((cpuOf 0 0x10 0 0 0 0 0xC1 0 0xD000 0xC002 16), [some 0x7F]) := by
  decide

/-- K28, R291: `BIT 7,A`. -/
theorem test_K28_BIT_7_A :
    ran (cpuOf 0x80 0x10 0 0 0 0 0 0 0xD000 0xC000 0) []
      [0xCB, 0x7F] [] =
      some ((cpuOf 0x80 0x30 0 0 0 0 0 0 0xD000 0xC002 8), []) := by
  decide

/-- K30, R292: `BIT 0,(HL)`. -/
theorem test_K30_BIT_0_HL :
    ran (cpuOf 0 0 0 0 0 0 0xC1 0 0xD000 0xC000 0) [(0xC100, 0xFE)]
      [0xCB, 0x46] [] =
      some ((cpuOf 0 0xA0 0 0 0 0 0xC1 0 0xD000 0xC002 12), []) := by
  decide

/-- K31, R293: `RES 0,A`. -/
theorem test_K31_RES_0_A :
    ran (cpuOf 0xFF 0xF0 0 0 0 0 0 0 0xD000 0xC000 0) []
      [0xCB, 0x87] [] =
      some ((cpuOf 0xFE 0xF0 0 0 0 0 0 0 0xD000 0xC002 8), []) := by
  decide

/-- K32, R294: `RES 7,(HL)`. -/
theorem test_K32_RES_7_HL :
    ran (cpuOf 0 0 0 0 0 0 0xC1 0 0xD000 0xC000 0) [(0xC100, 0xFF)]
      [0xCB, 0xBE] [0xC100] =
      some ((cpuOf 0 0 0 0 0 0 0xC1 0 0xD000 0xC002 16), [some 0x7F]) := by
  decide

/-- K33, R295: `SET 3,B`. -/
theorem test_K33_SET_3_B :
    ran (cpuOf 0 0 0 0 0 0 0 0 0xD000 0xC000 0) []
      [0xCB, 0xD8] [] =
      some ((cpuOf 0 0 0x08 0 0 0 0 0 0xD000 0xC002 8), []) := by
  decide

/-- K34, R296: `SET 0,(HL)`. -/
theorem test_K34_SET_0_HL :
    ran (cpuOf 0 0 0 0 0 0 0xC1 0 0xD000 0xC000 0) [(0xC100, 0x80)]
      [0xCB, 0xC6] [0xC100] =
      some ((cpuOf 0 0 0 0 0 0 0xC1 0 0xD000 0xC002 16), [some 0x81]) := by
  decide

/-- J1, R311: `JP 0x0150`. -/
theorem test_J1_JP_0x0150 :
    ran (cpuOf 0 0 0 0 0 0 0 0 0xD000 0xC000 0) []
      [0xC3, 0x50, 0x01] [] =
      some ((cpuOf 0 0 0 0 0 0 0 0 0xD000 0x0150 16), []) := by
  decide

/-- J2, R312: `JP NZ,0x4000`. -/
theorem test_J2_JP_NZ_0x4000 :
    ran (cpuOf 0 0 0 0 0 0 0 0 0xD000 0xC000 0) []
      [0xC2, 0x00, 0x40] [] =
      some ((cpuOf 0 0 0 0 0 0 0 0 0xD000 0x4000 16), []) := by
  decide

/-- J5, R313: `JP HL`. -/
theorem test_J5_JP_HL :
    ran (cpuOf 0 0 0 0 0 0 0x80 0 0xD000 0xC000 0) []
      [0xE9] [] =
      some ((cpuOf 0 0 0 0 0 0 0x80 0 0xD000 0x8000 4), []) := by
  decide

/-- J6, R314: `JR +5`. -/
theorem test_J6_JR_5 :
    ran (cpuOf 0 0 0 0 0 0 0 0 0xD000 0xC000 0) []
      [0x18, 0x05] [] =
      some ((cpuOf 0 0 0 0 0 0 0 0 0xD000 0xC007 12), []) := by
  decide

/-- J11, R315: `JR Z,+16`. -/
theorem test_J11_JR_Z_16 :
    ran (cpuOf 0 0x80 0 0 0 0 0 0 0xD000 0xC000 0) []
      [0x28, 0x10] [] =
      some ((cpuOf 0 0x80 0 0 0 0 0 0 0xD000 0xC012 12), []) := by
  decide

/-- J15, R316: `CALL 0x3000`. -/
theorem test_J15_CALL_0x3000 :
    ran (cpuOf 0 0 0 0 0 0 0 0 0xD000 0xC000 0) []
      [0xCD, 0x00, 0x30] [0xCFFF, 0xCFFE] =
      some ((cpuOf 0 0 0 0 0 0 0 0 0xCFFE 0x3000 24), [some 0xC0, some 0x03]) := by
  decide

/-- J16, R317: `CALL NC,0x3000`. -/
theorem test_J16_CALL_NC_0x3000 :
    ran (cpuOf 0 0x10 0 0 0 0 0 0 0xD000 0xC000 0) []
      [0xD4, 0x00, 0x30] [] =
      some ((cpuOf 0 0x10 0 0 0 0 0 0 0xD000 0xC003 12), []) := by
  decide

/-- J18, R318: `RET`. -/
theorem test_J18_RET :
    ran (cpuOf 0 0 0 0 0 0 0 0 0xCFFE 0xC000 0) [(0xCFFE, 0x03), (0xCFFF, 0x02)]
      [0xC9] [] =
      some ((cpuOf 0 0 0 0 0 0 0 0 0xD000 0x0203 16), []) := by
  decide

/-- J19, R319: `RET Z`. -/
theorem test_J19_RET_Z :
    ran (cpuOf 0 0 0 0 0 0 0 0 0xCFFE 0xC000 0) [(0xCFFE, 0x03), (0xCFFF, 0x02)]
      [0xC8] [] =
      some ((cpuOf 0 0 0 0 0 0 0 0 0xCFFE 0xC001 8), []) := by
  decide

/-- J21, R320: `RETI`. -/
theorem test_J21_RETI :
    ran (cpuOf 0 0 0 0 0 0 0 0 0xCFFE 0xC000 0) [(0xCFFE, 0x34), (0xCFFF, 0x12)]
      [0xD9] [] =
      some ({ cpuOf 0 0 0 0 0 0 0 0 0xD000 0x1234 16 with ime := true }, []) := by
  decide

/-- J23, R321: `RST 0x28`. -/
theorem test_J23_RST_0x28 :
    ran (cpuOf 0 0 0 0 0 0 0 0 0xD000 0xC000 0) []
      [0xEF] [0xCFFF, 0xCFFE] =
      some ((cpuOf 0 0 0 0 0 0 0 0 0xCFFE 0x0028 16), [some 0xC0, some 0x01]) := by
  decide

/-- Y1, R330: `NOP`. -/
theorem test_Y1_NOP :
    ran (cpuOf 0 0 0 0 0 0 0 0 0xD000 0xC000 0) []
      [0x00] [] =
      some ((cpuOf 0 0 0 0 0 0 0 0 0xD000 0xC001 4), []) := by
  decide

/-- Y2, R333: `DI`. -/
theorem test_Y2_DI :
    ran { cpuOf 0 0 0 0 0 0 0 0 0xD000 0xC000 0 with ime := true } []
      [0xF3] [] =
      some ((cpuOf 0 0 0 0 0 0 0 0 0xD000 0xC001 4), []) := by
  decide

/-- Y4, R334: `EI`. -/
theorem test_Y4_EI :
    ran (cpuOf 0 0 0 0 0 0 0 0 0xD000 0xC000 0) []
      [0xFB] [] =
      some ({ cpuOf 0 0 0 0 0 0 0 0 0xD000 0xC001 4 with imePending := true }, []) := by
  decide

/-- Y6, R331: `HALT`. -/
theorem test_Y6_HALT :
    ran (cpuOf 0 0 0 0 0 0 0 0 0xD000 0xC000 0) []
      [0x76] [] =
      some ({ cpuOf 0 0 0 0 0 0 0 0 0xD000 0xC001 4 with halt := true }, []) := by
  decide

/-- Y8, R332: `STOP`. -/
theorem test_Y8_STOP :
    ran (cpuOf 0 0 0 0 0 0 0 0 0xD000 0xC000 0) []
      [0x10, 0x00] [] =
      some ({ cpuOf 0 0 0 0 0 0 0 0 0xD000 0xC002 4 with stop := true }, []) := by
  decide


/-! ### Witnesses: states and operands that meet the hypotheses of each statement -/

/-- The outcome is a next state. -/
def goes (o : Out) : Bool :=
  match o with
  | .next _ => true
  | .fault _ => false
  | .refused _ => false

theorem exists_of_goes {o : Out} (h : goes o = true) : ∃ t, o = .next t := by
  cases o with
  | next t => exact ⟨t, rfl⟩
  | fault r => cases h
  | refused r => cases h

/-- The outcome is a fault. -/
def faults (o : Out) : Bool :=
  match o with
  | .next _ => false
  | .fault _ => true
  | .refused _ => false

theorem exists_of_faults {o : Out} (h : faults o = true) : ∃ r, o = .fault r := by
  cases o with
  | next t => cases h
  | fault r => exact ⟨r, rfl⟩
  | refused r => cases h

/-- The bus operation succeeds. -/
def oks (r : Res Unit) : Bool :=
  match r with
  | .ok _ _ => true
  | .fatal _ _ => false

theorem exists_of_oks {r : Res Unit} (h : oks r = true) : ∃ u, r = .ok () u := by
  cases r with
  | ok v u => exact ⟨u, rfl⟩
  | fatal a u => cases h

theorem exists_of_not_oks {r : Res Unit} (h : oks r = false) : ∃ a u, r = .fatal a u := by
  cases r with
  | ok v u => cases h
  | fatal a u => exact ⟨a, u, rfl⟩

/-- The baseline of 95_test_vectors.md with `HL`, `SP` and `pc` at the given places and the given code there. -/
def at3 (hl sp pc : Nat) (code : List Byte) : State :=
  ready (cpuOf 0 0 0 0 0 0 (hl / 256) (hl % 256) sp pc 0) [] code

/-- The state as the colour variant. -/
def asCgb (s : State) : State := { s with setup := { s.setup with variant := .cgb } }

/-- The state with another controller, 128 ROM banks and RAM of the given size. -/
def withCart (kind : Controller) (ramBytes : Nat) (s : State) : State :=
  { s with
    setup := { s.setup with cart := { s.setup.cart with ctrl := kind, romBanks := 128, ramBytes := ramBytes } } }

/-- The state with the given requests and enables. -/
def withInts (req enable : Nat) (s : State) : State := poked [(0xFF0F, req), (0xFFFF, enable)] s

theorem witness_DecodingAnEncodingGivesTheInstruction :
    (Instr.ldRrD16 .sp 0xFFFE).wf = true ∧ Instr.ldRrD16 .sp 0xFFFE ≠ .prefixCb := by decide

theorem witness_EncodingADecodingGivesTheBytes :
    decode [0xCB, 0x37, 0x00] = .instr (.swapR .a) 2 := by decide

theorem witness_FirstByteDecidesTheLength :
    decode (0x01 :: [0x34, 0x12]) = .instr (.ldRrD16 .bc 0x1234) 3 ∧ Instr.ldRrD16 .bc 0x1234 ≠ .prefixCb := by decide

theorem witness_StepRunsTheDecodedInstruction :
    (at3 0xC100 0xD000 0xC000 [0x3E, 0x91]).executing ∧
      ¬((at3 0xC100 0xD000 0xC000 [0x3E, 0x91]).sched.bootWatch = true ∧
        (at3 0xC100 0xD000 0xC000 [0x3E, 0x91]).ctl.bootActive = false) ∧
      bytesAt (at3 0xC100 0xD000 0xC000 [0x3E, 0x91]) 0xC000 [0x3E, 0x91] ∧
      decode [0x3E, 0x91] = .instr (.ldRD8 .a 0x91) 2 ∧ Instr.ldRD8 .a 0x91 ≠ .prefixCb :=
  ⟨⟨⟨by decide, by decide⟩, by decide, by decide⟩, by decide, ⟨by decide, by decide, trivial⟩, by decide, by decide⟩

theorem witness_EscapeRunsTheSelectedRow :
    readByte (at3 0xC100 0xD000 0xC000 [0x37]) 0xC000 = some 0x37 ∧ (0x37#8).toNat % 8 ≠ 6 ∧
      readByte (at3 0xC100 0xD000 0xC000 [0x46]) 0xC000 = some 0x46 ∧
      (at3 0xC100 0xD000 0xC000 [0x46]).mem.canonical = true ∧
        plainAt (at3 0xC100 0xD000 0xC000 [0x46]) 0xC100 = true ∧
      readByte (at3 0xC100 0xD000 0xFEA0 []) 0xFEA0 = none := by decide

theorem witness_UnreadableInstructionByteEndsTheStep :
    readByte (at3 0xC100 0xD000 0xFEA0 []) 0xFEA0 = none ∧
      readByte (at3 0xC100 0xD000 0xFE9F [0x3E]) 0xFE9F = some 0x3E ∧ 2 ≤ lengthOf 0x3E ∧
      readByte (at3 0xC100 0xD000 0xFE9F [0x3E]) 0xFEA0 = none ∧
      readByte (at3 0xC100 0xD000 0xFE9E [0xC3, 0x50]) 0xFE9E = some 0xC3 ∧ lengthOf 0xC3 = 3 ∧
      readByte (at3 0xC100 0xD000 0xFE9E [0xC3, 0x50]) 0xFE9F = some 0x50 ∧
      readByte (at3 0xC100 0xD000 0xFE9E [0xC3, 0x50]) 0xFEA0 = none := by decide

theorem witness_UndefinedOpcodeEndsTheRun :
    (0xFD, Instr.undefinedFD) ∈ undefinedRows ∧ decode (0xFD :: []) = .instr .undefinedFD 1 ∧
      ({ State.reset with fault := some ⟨.processor, .opcode 0xDD 0xC000⟩ } : State).fault.isSome = true := by decide

theorem witness_RegisterLoadsCopyTheValue :
    Reg8.nameable .a = true ∧ Reg8.nameable .b = true ∧ Reg16.inRp .sp = true := by decide

theorem witness_LoadsFromMemoryTakeTheByte :
    Reg8.nameable .h = true ∧ readByte (at3 0xC100 0xD000 0xC000 []) 0xC100 = some 0x00 ∧
      readByte (at3 0xFFFF 0xD000 0xC000 []) 0xFFFF = some 0x00 ∧
      readByte (at3 0xA000 0xD000 0xC000 []) 0xA000 = none := by decide

theorem witness_StoresWriteTheByteThroughTheBus :
    Reg8.nameable .l = true ∧ oks (writeByte (at3 0xC100 0xD000 0xC000 []) 0xC100 0x5A) = true ∧
      oks (writeByte (at3 0xFEA0 0xD000 0xC000 []) 0xFEA0 0x5A) = false ∧
      (at3 0xFFFF 0xD000 0xC000 []).mem.canonical = true ∧
        plainAt (at3 0xFFFF 0xD000 0xC000 []) 0xFFFF = true := by decide

/-- The four clauses of a push: it completes, its first and its second store have no backing,
it is onto plain storage. -/
theorem witness_PushStoresTheHighByteFirst :
    Reg16.inRp2 .af = true ∧ pushStores 0x1234 (at3 0xC100 0xD000 0xC000 [])
        (poked [(0xCFFF, 0x12), (0xCFFE, 0x34)] (at3 0xC100 0xCFFE 0xC000 [])) ∧
      oks (writeByte (at3 0xC100 0xFEFF 0xC000 []) 0xFEFF 0x12) = false ∧
      oks (writeByte (at3 0xC100 0xFF00 0xC000 []) 0xFF00 0x12) = true ∧
      oks (writeByte (at3 0xC100 0xFEFF 0xC000 []) 0xFEFF 0x34) = false ∧
      (at3 0xC100 0xC001 0xC000 []).mem.canonical = true ∧ plainAt (at3 0xC100 0xE001 0xC000 []) 0xE000 = true ∧
      plainAt (at3 0xC100 0xD000 0xC000 []) 0xCFFF = true ∧ plainAt (at3 0xC100 0xD000 0xC000 []) 0xCFFE = true ∧
      locate (at3 0xC100 0xD000 0xC000 []) 0xCFFF ≠ locate (at3 0xC100 0xD000 0xC000 []) 0xCFFE := by
  refine ⟨by decide, ⟨_, rfl, rfl⟩, ?_⟩
  decide

theorem witness_PopTakesTheLowByteFirst :
    Reg16.inRp .hl = true ∧ Reg16.inRp2 .hl = true ∧ wordAtSp (at3 0xC100 0xC000 0xC000 [0x34, 0x12]) 0x1234 ∧
      readByte (at3 0xC100 0xFEA0 0xC000 []) 0xFEA0 = none ∧
      readByte (at3 0xC100 0xFE9F 0xC000 []) 0xFE9F = some 0x00 ∧
      readByte (at3 0xC100 0xFE9F 0xC000 []) 0xFEA0 = none :=
  ⟨by decide, by decide, ⟨by decide, by decide⟩, by decide, by decide, by decide⟩

theorem witness_StackPointerStoreIsLowByteFirst :
    oks (writeByte (at3 0xC100 0xD000 0xC000 []) 0xC100 0x00) = true ∧
      oks (writeByte (at3 0xC100 0xD000 0xC000 []) 0xC101 0xD0) = true ∧
      oks (writeByte (at3 0xC100 0xD000 0xC000 []) 0xFEA0 0x00) = false ∧
      oks (writeByte (at3 0xC100 0xD000 0xC000 []) 0xFE9F 0x00) = true ∧
      (at3 0xC100 0xD000 0xC000 []).mem.canonical = true ∧ plainAt (at3 0xC100 0xD000 0xC000 []) 0xFFFE = true ∧
      plainAt (at3 0xC100 0xD000 0xC000 []) 0xFFFF = true ∧
      locate (at3 0xC100 0xD000 0xC000 []) 0xFFFE ≠ locate (at3 0xC100 0xD000 0xC000 []) 0xFFFF := by decide

theorem witness_IncrementAndDecrementKeepCarry :
    Reg8.nameable .a = true ∧ readByte (at3 0xC100 0xD000 0xC000 []) 0xC100 = some 0 ∧
      oks (writeByte (at3 0xC100 0xD000 0xC000 []) 0xC100 1) = true ∧
      readByte (at3 0xFEFF 0xD000 0xC000 []) 0xFEFF = none := by decide

theorem witness_WordArithmeticIsExact : Reg16.inRp .sp = true ∧ Reg16.inRp .bc = true := by decide

theorem witness_RotatesAndShiftsMoveEveryBit :
    Reg8.nameable .h = true ∧
      readByte (at3 0xFFFF 0xD000 0xC000 []) (reg16 (at3 0xFFFF 0xD000 0xC000 []) .hl) = some 0 ∧
      oks (writeByte (at3 0xFFFF 0xD000 0xC000 []) 0xFFFF 0) = true ∧
      readByte (at3 0xFEA0 0xD000 0xC000 []) (reg16 (at3 0xFEA0 0xD000 0xC000 []) .hl) = none := by decide

theorem witness_BitInstructionsTouchOneBit :
    Reg8.nameable .l = true ∧ readByte (at3 0xFE9F 0xD000 0xC000 []) 0xFE9F = some 0 ∧
      oks (writeByte (at3 0xFE9F 0xD000 0xC000 []) 0xFE9F 1) = true ∧
      readByte (at3 0xA000 0xD000 0xC000 []) 0xA000 = none := by decide

theorem witness_AdditionIsExactWithItsFlags :
    Reg8.nameable .a = true ∧
      readByte (at3 0xC100 0xD000 0xC000 []) (reg16 (at3 0xC100 0xD000 0xC000 []) .hl) = some 0 ∧
      readByte (at3 0xA000 0xD000 0xC000 []) (reg16 (at3 0xA000 0xD000 0xC000 []) .hl) = none := by decide

theorem witness_SubtractionIsExactWithItsFlags :
    Reg8.nameable .b = true ∧
      readByte (at3 0xFFFF 0xD000 0xC000 []) (reg16 (at3 0xFFFF 0xD000 0xC000 []) .hl) = some 0 ∧
      readByte (at3 0xBFFF 0xD000 0xC000 []) (reg16 (at3 0xBFFF 0xD000 0xC000 []) .hl) = none := by decide

theorem witness_LogicIsBitwiseWithItsFlags :
    Reg8.nameable .l = true ∧
      readByte (at3 0x0000 0xD000 0xC000 []) (reg16 (at3 0x0000 0xD000 0xC000 []) .hl) = some 0 ∧
      readByte (at3 0xFEA0 0xD000 0xC000 []) (reg16 (at3 0xFEA0 0xD000 0xC000 []) .hl) = none := by decide

theorem witness_AccumulatorAdjustmentsFollowTheirRules :
    State.reset.cpu.flags.n = false ∧
      ({ State.reset with cpu := { State.reset.cpu with flags := ⟨false, true, true, true⟩ } } : State).cpu.flags.n =
        true := by
  decide

theorem witness_DecimalAdjustGivesDecimalArithmetic :
    ∃ t u t' u', (ready (cpuOf 0x99 0 0 0 0 0 0 0 0 0 0) [] []).cpu.a.toNat = 99 / 10 * 16 + 99 % 10 ∧
      exec (.addD8 (BitVec.ofNat 8 (99 / 10 * 16 + 99 % 10))) (ready (cpuOf 0x99 0 0 0 0 0 0 0 0 0 0) [] []) =
        .next t ∧
      exec .daa t = .next u ∧
      exec (.subD8 (BitVec.ofNat 8 (99 / 10 * 16 + 99 % 10))) (ready (cpuOf 0x99 0 0 0 0 0 0 0 0 0 0) [] []) =
        .next t' ∧
      exec .daa t' = .next u' :=
  ⟨_, _, _, _, by decide, rfl, rfl, rfl, rfl⟩

/-- Each of the four conditions holds in one state and fails in another. -/
theorem witness_JumpsSetTheProgramCounter :
    condTrue .nz ⟨false, false, false, false⟩ ∧ ¬condTrue .nz ⟨true, false, false, false⟩ ∧
      condTrue .z ⟨true, false, false, false⟩ ∧ ¬condTrue .z ⟨false, false, false, false⟩ ∧
      condTrue .nc ⟨false, false, false, false⟩ ∧ ¬condTrue .nc ⟨false, false, false, true⟩ ∧
      condTrue .c ⟨false, false, false, true⟩ ∧ ¬condTrue .c ⟨false, false, false, false⟩ := by simp [condTrue]

theorem witness_CallsPushTheReturnAddress :
    condTrue .nc (at3 0xC100 0xD000 0xC003 []).cpu.flags ∧ ¬condTrue .c (at3 0xC100 0xD000 0xC003 []).cpu.flags ∧
      pushStores 0xC003 (at3 0xC100 0xD000 0xC003 [])
        (poked [(0xCFFF, 0xC0), (0xCFFE, 0x03)] (at3 0xC100 0xCFFE 0xC003 [])) :=
  ⟨rfl, by simp [condTrue, at3, ready, cpuOf, pokeBytes, poked], ⟨_, rfl, rfl⟩⟩

theorem witness_ReturnsPopTheProgramCounter :
    condTrue .nz (at3 0xC100 0xC100 0xC000 []).cpu.flags ∧ wordAtSp (at3 0xC100 0xC000 0xC000 [0x34, 0x12]) 0x1234 ∧
      readByte (at3 0xC100 0xFEA0 0xC000 []) 0xFEA0 = none ∧
      readByte (at3 0xC100 0xFE9F 0xC000 []) 0xFE9F = some 0x00 ∧
        readByte (at3 0xC100 0xFE9F 0xC000 []) 0xFEA0 = none :=
  ⟨rfl, ⟨by decide, by decide⟩, by decide, by decide, by decide⟩

theorem witness_ReturnUndoesACall :
    (at3 0xC100 0xD000 0xC000 []).mem.canonical = true ∧ plainAt (at3 0xC100 0xD000 0xC000 []) 0xCFFF = true ∧
      plainAt (at3 0xC100 0xD000 0xC000 []) 0xCFFE = true ∧
      locate (at3 0xC100 0xD000 0xC000 []) 0xCFFF ≠ locate (at3 0xC100 0xD000 0xC000 []) 0xCFFE := by decide

/-- The state with `IME` set. -/
def enabled (s : State) : State := { s with cpu := { s.cpu with ime := true } }

/-- The state halted. -/
def halted (s : State) : State := { s with cpu := { s.cpu with halt := true } }

/-- The state stopped. -/
def stopped (s : State) : State := { s with cpu := { s.cpu with stop := true } }

/-- The five interrupts at the boundaries 0 and 4, the entry that completes, and pushes without backing. -/
theorem witness_InterruptEntryFollowsItsRule :
    lowestPending (withInts 0x1F 0x1F State.reset) 0 ∧ lowestPending (withInts 0xF0 0xFF State.reset) 4 ∧
      nonePending (withInts 0xE0 0xFF State.reset) ∧
      (enabled (withInts 1 1 State.reset)).cpu.ime = true ∧ (enabled (withInts 1 1 State.reset)).cpu.halt = false ∧
      (enabled (withInts 1 1 State.reset)).cpu.stop = false ∧
      bitCleared 0 (ifReg (withInts 1 1 State.reset)) 0 ∧
      (∃ t, pushStores 0x0100 (acknowledged 0 (enabled (withInts 1 1 State.reset))) t) ∧
      oks (writeByte (acknowledged 0 (withInts 1 1 (at3 0xC100 0xFEFF 0x0100 []))) 0xFEFF 0x01) = false ∧
      oks (writeByte (acknowledged 0 (withInts 1 1 (at3 0xC100 0xFF00 0x0100 []))) 0xFF00 0x01) = true := by
  refine ⟨⟨by decide, by decide, by decide, by decide⟩, ⟨by decide, by decide, by decide, by decide⟩,
    by unfold nonePending; decide, by decide, by decide, by decide, by unfold bitCleared; decide,
    ⟨_, _, rfl, rfl⟩, by decide, by decide⟩

theorem witness_HaltedStepWakesOnAnEnabledRequest :
    (halted State.reset).cpu.halt = true ∧ (halted State.reset).cpu.stop = false ∧ nonePending (halted State.reset) ∧
      (halted (withInts 1 1 State.reset)).cpu.ime = false ∧ ¬nonePending (halted (withInts 1 1 State.reset)) ∧
      (halted (enabled (withInts 1 1 State.reset))).cpu.ime = true :=
  ⟨rfl, rfl, by unfold nonePending; decide, rfl, by unfold nonePending; decide, rfl⟩

/-- The five clauses: a pending enable before `NOP`, and `DI`, `EI`, `RETI` and `NOP` with none pending. -/
theorem witness_EnableTakesEffectAfterTheNextInstruction :
    (({ at3 0xC100 0xD000 0xC000 [0x00] with cpu := { (at3 0xC100 0xD000 0xC000 [0x00]).cpu with imePending := true } } :
      State).cpu.imePending = true) ∧
    (∃ t u, fetchInstr (at3 0xC100 0xD000 0xC000 [0x00]) = .ok .nop u ∧
      executePath (at3 0xC100 0xD000 0xC000 [0x00]) = .next t) ∧
    (∃ t u, fetchInstr (at3 0xC100 0xD000 0xC000 [0xF3]) = .ok .di u ∧
      executePath (at3 0xC100 0xD000 0xC000 [0xF3]) = .next t) ∧
    (∃ t u, fetchInstr (at3 0xC100 0xD000 0xC000 [0xFB]) = .ok .ei u ∧
      executePath (at3 0xC100 0xD000 0xC000 [0xFB]) = .next t) ∧
    (∃ t u, fetchInstr (at3 0xC100 0xD000 0xC000 [0xD9]) = .ok .reti u ∧
      executePath (at3 0xC100 0xD000 0xC000 [0xD9]) = .next t) :=
  ⟨rfl, ⟨_, _, rfl, rfl⟩, ⟨_, _, rfl, rfl⟩, ⟨_, _, rfl, rfl⟩, ⟨_, _, rfl, rfl⟩⟩

theorem witness_StoppedStepSwitchesTheSpeed :
    (stopped State.reset).cpu.stop = true ∧ isCgb (asCgb State.reset) = true ∧
      (key1 (asCgb State.reset)).getLsbD 0 = false ∧
        (key1 (poked [(0xFF4D, 1)] (asCgb State.reset))).getLsbD 0 = true ∧
      isCgb State.reset = false ∧ State.reset.host.stopWakes = [] ∧
      ({ State.reset with host := { State.reset.host with stopWakes := [true] } } : State).host.stopWakes =
        true :: [] := by
  decide

/-- Both ends of each range of the address map. -/
theorem witness_ReadsFollowTheAddressMap :
    (0x00FF#16).toNat < 0x100 ∧ (State.resetWith { baselineSetup with boot := some [] }).ctl.bootActive = true ∧
      State.reset.ctl.bootActive = false ∧ 0x100 ≤ (0x0100#16).toNat ∧ (0x3FFF#16).toNat < 0x4000 ∧
      0x4000 ≤ (0x4000#16).toNat ∧ (0x7FFF#16).toNat < 0x8000 ∧ 0x8000 ≤ (0x8000#16).toNat ∧
        (0x9FFF#16).toNat < 0xA000 ∧
      0xA000 ≤ (0xA7FF#16).toNat ∧ (0xA7FF#16).toNat < 0xC000 ∧
      (withCart .a 2048 { State.reset with ctl := { State.reset.ctl with eramEnabled := true } }).ctl.eramEnabled =
        true ∧
      ramBank (withCart .a 2048 State.reset) * 0x2000 + ((0xA7FF#16).toNat - 0xA000) < 2048 ∧
      0xC000 ≤ (0xCFFF#16).toNat ∧ (0xCFFF#16).toNat < 0xD000 ∧ 0xD000 ≤ (0xDFFF#16).toNat ∧
        (0xDFFF#16).toNat < 0xE000 ∧
      0xFE00 ≤ (0xFE9F#16).toNat ∧ (0xFE9F#16).toNat < 0xFEA0 ∧ 0xFF80 ≤ (0xFFFE#16).toNat ∧
        (0xFFFE#16).toNat < 0xFFFF := by
  decide

theorem witness_EchoIsTheSameStorage :
    0xE000 ≤ (0xE000#16).toNat ∧ (0xE000#16).toNat < 0xFE00 ∧ 0xE000 ≤ (0xFDFF#16).toNat ∧
      (0xFDFF#16).toNat < 0xFE00 := by
  decide

theorem witness_NothingChangesTheCartridgeImage :
    (∃ t, step State.reset = .next t) ∧ (0x7FFF#16).toNat < 0x8000 := ⟨exists_of_goes (by decide), by decide⟩

/-- Each controller, each region at its ends, both modes. -/
theorem witness_BankRegistersSelectNormalisedBanks :
    State.reset.setup.cart.ctrl = .none ∧ (0x7FFF#16).toNat < 0x8000 ∧
      (withCart .a 0x8000 State.reset).setup.cart.ctrl = .a ∧ (withCart .b 0x8000 State.reset).setup.cart.ctrl = .b ∧
      (withCart .c 0x8000 State.reset).setup.cart.ctrl = .c ∧ (0x1FFF#16).toNat < 0x2000 ∧ 0x2000 ≤ (0x2000#16).toNat ∧
      (0x2FFF#16).toNat < 0x3000 ∧ 0x3000 ≤ (0x3000#16).toNat ∧ (0x3FFF#16).toNat < 0x4000 ∧
        0x4000 ≤ (0x4000#16).toNat ∧
      (0x5FFF#16).toNat < 0x6000 ∧ 0x6000 ≤ (0x6000#16).toNat ∧
        (withCart .a 0x8000 State.reset).ctl.bankLo.toNat < 32 ∧
      (withCart .a 0x8000 State.reset).ctl.bankMode = false ∧
      ({ State.reset with ctl := { State.reset.ctl with bankMode := true } } : State).ctl.bankMode = true ∧
      (withCart .c 0x8000 State.reset).setup.cart.wf = true := by decide

/-- A state whose H-blank transfer reads disabled external RAM at its next entry to H-blank. -/
def dmaIntoNothing : State :=
  { asCgb State.reset with
    hdma := { src := 0xA000, dst := 0x8000, len := 16, active := true }
    mem := { State.reset.mem with io := [(0x40, 0x80), (0x41, 0x03)] }
    ppu := { State.reset.ppu with cyc := 172 } }

theorem witness_FatalAccessesAreExactlyTheListed :
    readByte State.reset 0xBFFF = none ∧ readByte State.reset 0xFEA0 = none ∧ readByte State.reset 0xFE9F ≠ none ∧
      readByte State.reset 0xFF00 ≠ none ∧ (0xFFFF#16 : Word) ≠ 0xFF46 ∧ isCgb State.reset = false ∧
      (∃ r, processorStep (at3 0xC100 0xD000 0xFEA0 []) = .fault r) ∧
      (∃ r, devicesAdvance dmaIntoNothing = .fault r) :=
  ⟨by decide, by decide, by decide, by decide, by decide, by decide, exists_of_faults (by decide),
    exists_of_faults (by decide)⟩

theorem witness_IoWritesHaveTheirSideEffects :
    (0x7F < 0x80 ∧ 0x7F ∉ [0x00, 0x01, 0x04, 0x40, 0x41, 0x44, 0x45, 0x46, 0x50]) ∧
      (isCgb (asCgb State.reset) = true → 0x7F ∉ [0x4D, 0x55, 0x69, 0x6B]) ∧ isCgb (asCgb State.reset) = true ∧
      (asCgb State.reset).mem.canonical = true ∧ oks (writeByte (asCgb State.reset) 0xFF4F 1) = true ∧
      oks (writeByte (asCgb State.reset) 0xFF70 7) = true := by decide

theorem witness_DisplayWritesHaveTheirSideEffects :
    State.reset.mem.canonical = true ∧ (lcdc State.reset).getLsbD 7 = true ∧ (0x11#8).getLsbD 7 = false ∧
      (0x91#8).getLsbD 7 = true ∧ (lcdc (poked [(0xFF40, 0)] State.reset)).getLsbD 7 = false := by decide

set_option maxRecDepth 20000 in
theorem witness_OamDmaCopiesFromTheSource :
    State.reset.mem.canonical = true ∧
      (∀ i, i < 160 → readByte State.reset (BitVec.ofNat 16 ((0xC1#8).toNat * 256 + i)) ≠ none) ∧
      readByte State.reset (BitVec.ofNat 16 ((0xA0#8).toNat * 256 + 0)) = none := by
  refine ⟨by decide, fun i hi => ?_, by decide⟩
  revert i; decide

theorem witness_IoReadsAreComputedOrPlain :
    isCgb (asCgb State.reset) = true ∧ (asCgb State.reset).hdma.active = false ∧ dmaIntoNothing.hdma.active = true ∧
      isCgb dmaIntoNothing = true ∧ 0 < 1 ∧ 0x7F < 0x80 := by decide

/-- The state of the colour variant with the given bytes in `HDMA1` to `HDMA4`. -/
def aimed (h1 h2 h3 h4 : Nat) : State :=
  poked [(0xFF51, h1), (0xFF52, h2), (0xFF53, h3), (0xFF54, h4)] (asCgb State.reset)

/-- The clauses: a cancel, a stepped start of both kinds,
an immediate transfer from work RAM and one from video RAM that
complete, and one that ends at its 17th byte. -/
theorem witness_HdmaWriteStartsOrCancels :
    isCgb dmaIntoNothing = true ∧ dmaIntoNothing.mem.canonical = true ∧ dmaIntoNothing.hdma.active = true ∧
      (0x7F#8).toNat < 128 ∧ 128 ≤ (0x80#8).toNat ∧ (aimed 0xC1 0 0 0).mem.canonical = true ∧
      isCgb (aimed 0xC1 0 0 0) = true ∧ (aimed 0xC1 0 0 0).hdma.active = false ∧
      (aimed 0xC1 0 0 0).setup.gdmaImmediate = true ∧
      ({ asCgb State.reset with setup := { (asCgb State.reset).setup with gdmaImmediate := false } } :
        State).setup.gdmaImmediate = false ∧
      (∀ i, i < 16 → readByte (aimed 0xC1 0 0 0) (0xC100#16 + BitVec.ofNat 16 i) ≠ none) ∧
      (∀ i, i < 16 → readByte (aimed 0x80 0 0x1F 0xF0) (0x8000#16 + BitVec.ofNat 16 i) ≠ none) ∧
      (∀ i, i < 16 → readByte (aimed 0x9F 0xF0 0 0) (0x9FF0#16 + BitVec.ofNat 16 i) ≠ none) ∧
      readByte (aimed 0x9F 0xF0 0 0) (0x9FF0#16 + BitVec.ofNat 16 16) = none := by
  refine ⟨by decide, by decide, by decide, by decide, by decide, by decide, by decide, by decide, by decide, by decide,
    ?_, ?_, ?_, by decide⟩ <;> decide

/-- The state whose H-blank transfer has the given source and destination. -/
def transferring (src dst : Word) (len : Nat) : State :=
  { asCgb State.reset with hdma := { src := src, dst := dst, len := len, active := true } }

/-- The last source below video RAM with the last destination, a source inside video RAM with the same,
one that wraps at
the top of memory, and one whose ninth byte cannot be read. -/
theorem witness_HdmaStepCopiesOneChunk :
    (transferring 0x7FF0 0x9FF0 16).mem.canonical = true ∧ 0x8000 ≤ (0x9FF0#16).toNat ∧ (0x9FF0#16).toNat < 0xA000 ∧
      0x8000 ≤ (0x8000#16).toNat ∧
      (∀ i, i < 16 → readByte (transferring 0x7FF0 0x9FF0 16) (0x7FF0#16 + BitVec.ofNat 16 i) ≠ none) ∧
      (∀ i, i < 16 → readByte (transferring 0x9FF0 0x9FF0 16) (0x9FF0#16 + BitVec.ofNat 16 i) ≠ none) ∧
      (∀ i, i < 16 → readByte (transferring 0xFFF8 0x8000 32) (0xFFF8#16 + BitVec.ofNat 16 i) ≠ none) ∧
      (∀ i, i < 8 → readByte (transferring 0x9FF8 0x8000 32) (0x9FF8#16 + BitVec.ofNat 16 i) ≠ none) ∧
      readByte (transferring 0x9FF8 0x8000 32) (0x9FF8#16 + BitVec.ofNat 16 8) = none := by
  refine ⟨by decide, by decide, by decide, by decide, ?_, ?_, ?_, ?_, by decide⟩ <;> decide

theorem witness_RegistersNotNamedAreKept :
    (∃ t, exec (.ldRR .a .b) State.reset = .next t) ∧ Instr.ldRR .a .b ≠ .prefixCb ∧ writesSp (.ldRR .a .b) = false ∧
      writesPc (.ldRR .a .b) = false := ⟨⟨_, rfl⟩, by decide, by decide, by decide⟩

theorem witness_FlagsFollowTheFlagTable :
    (∃ t, exec .daa State.reset = .next t) ∧ Instr.daa ≠ .prefixCb ∧ Instr.daa.wf = true :=
  ⟨⟨_, rfl⟩, by decide, by decide⟩

theorem witness_CostsFollowTheCostTable :
    (∃ t, exec (.retCc .nz) (at3 0xC100 0xC000 0xC000 []) = .next t) ∧ Instr.retCc .nz ≠ .prefixCb ∧
      (Instr.retCc .nz).wf = true ∧ (at3 0xC100 0xC000 0xC000 []).setup.costs = defaultCosts :=
  ⟨exists_of_goes (by decide), by decide, by decide, rfl⟩

/-- A push onto plain storage, an instruction that stores nothing, and one store to the I/O window. -/
theorem witness_StoresChangeOnlyTheirBytes :
    (∃ t, exec (.pushRr .bc) (at3 0xC100 0xD000 0xC000 []) = .next t) ∧
      (∀ a ∈ storeAddresses (.pushRr .bc) (at3 0xC100 0xD000 0xC000 []), plainAt (at3 0xC100 0xD000 0xC000 []) a =
        true) ∧
      storeAddresses .nop State.reset = [] ∧
      (∃ t, exec (.ldHlR .a) (at3 0xFF07 0xD000 0xC000 []) = .next t) ∧
      storeAddresses (.ldHlR .a) (at3 0xFF07 0xD000 0xC000 []) = [0xFF07] ∧
        (at3 0xFF07 0xD000 0xC000 []).mem.canonical = true ∧
      plainPlace (.wram 0) = true ∧ Loc.wram 0 ≠ locate (at3 0xFF07 0xD000 0xC000 []) 0xFF07 := by
  have push : storeAddresses (.pushRr .bc) (at3 0xC100 0xD000 0xC000 []) = [0xCFFF, 0xCFFE] := rfl
  refine ⟨exists_of_goes (by decide), fun a ha => ?_, rfl, exists_of_goes (by decide), rfl, by decide, rfl, by decide⟩
  rw [push] at ha
  rcases List.mem_cons.mp ha with rfl | ha
  · decide
  · rw [List.mem_singleton.mp ha]; decide

theorem witness_DividerCountsEveryCycle :
    State.reset.mem.canonical = true ∧ 0 < State.reset.setup.periods.div ∧ State.reset.timer.divReset = false ∧
      ({ State.reset with timer := { State.reset.timer with divReset := true } } : State).timer.divReset =
        true := by decide

/-- The clauses of the main counter: another period, disabled, below a period, one period at both values of `TIMA`. -/
theorem witness_MainCounterFollowsItsPeriod :
    State.reset.mem.canonical = true ∧ State.reset.setup.periods.wf = true ∧
      (tacReg (poked [(0xFF07, 5)] State.reset)).extractLsb' 0 2 ≠ (poked [(0xFF07, 5)] State.reset).timer.timaSel ∧
      (tacReg State.reset).extractLsb' 0 2 = State.reset.timer.timaSel ∧ (tacReg State.reset).getLsbD 2 = false ∧
      (tacReg (poked [(0xFF07, 4)] State.reset)).extractLsb' 0 2 = State.reset.timer.timaSel ∧
      (tacReg (poked [(0xFF07, 4)] State.reset)).getLsbD 2 = true ∧
      State.reset.timer.timaAcc + 1023 < periodOf State.reset State.reset.timer.timaSel ∧
      periodOf State.reset State.reset.timer.timaSel ≤ State.reset.timer.timaAcc + 1024 ∧
      State.reset.timer.timaAcc + 1024 < 2 * periodOf State.reset State.reset.timer.timaSel ∧
      timaReg (poked [(0xFF05, 0xFF)] State.reset) = 0xFF ∧ timaReg State.reset ≠ 0xFF := by decide

/-- The display on, in the mode and on the line given, with the mode's cycles as given. -/
def onLine (statByte line cyc : Nat) : State :=
  { poked [(0xFF40, 0x91), (0xFF41, statByte), (0xFF44,
    line)] State.reset with ppu := { State.reset.ppu with cyc := cyc } }

/-- The end of pixel-transfer of the colour variant with an active transfer from the given source. -/
def lineTransfer (src : Word) : State :=
  { asCgb (onLine 3 0 171) with hdma := { src := src, dst := 0x8000, len := 16, active := true } }

/-- Each mode at the end of its time, H-blank on lines 142 and 143, V-blank on lines 152 and 153, the display off,
and an
entry to H-blank with an active transfer, which completes or ends the advance. -/
theorem witness_DisplayModesFollowTheSchedule :
    (onLine 2 0 79).mem.canonical = true ∧ (onLine 2 0 79).setup.display.wf = true ∧ (onLine 2 0 79).ppuLegal ∧
      ppuMode (onLine 2 0 79) = .oamSearch ∧ (onLine 3 143 171).ppuLegal ∧
        ppuMode (onLine 3 143 171) = .pixelTransfer ∧
      isCgb (onLine 3 143 171) = false ∧ (onLine 0 142 203).ppuLegal ∧ (onLine 0 143 203).ppuLegal ∧
      ppuMode (onLine 0 143 203) = .hBlank ∧ (onLine 1 152 455).ppuLegal ∧ (onLine 1 153 455).ppuLegal ∧
      ppuMode (onLine 1 153 455) = .vBlank ∧ (lcdc (onLine 1 153 455)).getLsbD 7 = true ∧
      (lcdc (poked [(0xFF40, 0x11)] State.reset)).getLsbD 7 = false ∧ (poked [(0xFF40, 0x11)] State.reset).ppuLegal ∧
      (lineTransfer 0xC100).mem.canonical = true ∧ (lineTransfer 0xC100).ppuLegal ∧
      ppuMode (lineTransfer 0xC100) = .pixelTransfer ∧ isCgb (lineTransfer 0xC100) = true ∧
      (lineTransfer 0xC100).hdma.active = true ∧ oks (ppuAdvance 1 (lineTransfer 0xC100)) = true ∧
      oks (ppuAdvance 1 (lineTransfer 0xA000)) = false := by
  unfold State.ppuLegal
  decide

/-- A state whose object entry 0 and whose background both show tile 0, with index 3 in its first row,
in the first column
of line 0, under the given `LCDC` and object attributes. -/
def pictured (lcdcByte attr : Nat) : State :=
  poked [(0xFF40, lcdcByte), (0xFE00, 16), (0xFE01, 8), (0xFE03, attr), (0x8000, 0xFF), (0x8001, 0xFF)] State.reset

/-- The object draws over a blank background and is hidden behind one that is not; no entry draws at reset; the window, the
background and neither of them are shown; rows inside the frame and below it. -/
theorem witness_RenderingWritesOneRow :
    objectDraws (pictured 0x93 0) 0 0 0 false 0 (Config.dmgShade 3) ∧ (lcdc (pictured 0x93 0)).getLsbD 1 = true ∧
      behindBackground (pictured 0x93 0x80) 0x80 3 false ∧
      (∀ n colour, ¬objectDraws State.reset 0 0 0 false n colour) ∧ windowShown (pictured 0xB1 0) 0 0 ∧
      ¬windowShown State.reset 0 0 ∧ backgroundShown State.reset ∧ ¬backgroundShown (pictured 0x80 0) ∧
      (1 : Nat) ≠ 0 ∧ State.reset.setup.display.screenH ≤ 144 ∧ 143 < State.reset.setup.display.screenH ∧
      159 < State.reset.setup.display.screenW := by
  refine ⟨⟨by decide, 0, 3, ⟨8, 16, 8, 0, by decide, by decide, by decide, by decide, by decide, by decide, by decide,
      by decide, by decide, by unfold tileIndex; decide⟩, by decide, ?_, ?_⟩, by decide, ?_, ?_, ?_, ?_, ?_, ?_,
        by decide,
    by decide, by decide, by decide⟩
  · unfold behindBackground
    decide
  · exact ⟨fun h => absurd h (by decide), fun _ => ⟨3, by decide, rfl⟩⟩
  · unfold behindBackground
    decide
  · rintro n colour ⟨-, attr, idx, ⟨h, y, x, t, hh, hy, -, -, -, h1, h2, -⟩, -⟩
    have hm : ∀ k, Memory.get State.reset.mem.oam k = 0 := fun _ => rfl
    rw [hm] at hy
    have : (lcdc State.reset).getLsbD 2 = false := by decide
    rw [this] at hh
    have hy : y = 0 := hy
    have hh : h = 8 := hh
    omega
  · unfold windowShown backgroundShown
    decide
  · unfold windowShown backgroundShown
    decide
  · unfold backgroundShown
    decide
  · unfold backgroundShown
    decide

theorem witness_IterationRunsTheAgentsInOrder :
    State.reset.running ∧
      ({ State.resetWith { baselineSetup with boot := some [] } with ctl := State.reset.ctl } : State).sched.bootWatch = true ∧
      ({ State.resetWith { baselineSetup with boot := some [] } with ctl := State.reset.ctl } : State).ctl.bootActive = false ∧
      ¬(State.reset.sched.bootWatch = true ∧ State.reset.ctl.bootActive = false) ∧
      oks (ppuAdvance State.reset.cpu.cycI State.reset) = true ∧
        oks (ppuAdvance dmaIntoNothing.cpu.cycI dmaIntoNothing) = false ∧
      State.reset.sched.pollAcc + 70223 < State.reset.setup.pollEvery ∧
      State.reset.setup.pollEvery ≤ State.reset.sched.pollAcc + 70224 :=
  ⟨⟨rfl, rfl⟩, by decide, by decide, by decide, by decide, by decide, by decide, by decide⟩

/-- The state whose next poll answers that `right` is pressed, with the quit signal as given. -/
def polled (quit : Bool) : State :=
  { State.reset with host := { State.reset.host with polls := [⟨{ Keys.released with right := true }, quit⟩] } }

theorem witness_PollAndFlushFollowTheirRules :
    (polled false).mem.canonical = true ∧ (polled false).host.polls = [⟨{ Keys.released with right := true }, false⟩] ∧
      (polled false).setup.joypadIrqOnPress = true ∧
      newlyPressed (polled false).host.keys { Keys.released with right := true } = true ∧
      newlyPressed { Keys.released with right := true } { Keys.released with right := true } = false ∧
      (polled true).host.polls = [⟨{ Keys.released with right := true }, true⟩] ∧ (polled true).fault = none ∧
      ({ State.reset with
          setup := { baselineSetup with cart := { baselineSetup.cart with battery := true } }
          ctl := { State.reset.ctl with eramDirty := true } } : State).setup.cart.battery = true ∧
      State.reset.setup.cart.battery = false := by decide

theorem witness_StepKeepsMemoriesCanonical :
    State.reset.mem.canonical = true ∧ ∃ t, step State.reset = .next t := ⟨by decide, exists_of_goes (by decide)⟩

theorem witness_StepKeepsTheDisplayOnSchedule :
    State.reset.mem.canonical = true ∧ State.reset.setup.display.wf = true ∧ State.reset.ppuLegal ∧
      ∃ t, step State.reset = .next t :=
  ⟨by decide, by decide, by unfold State.ppuLegal; decide, exists_of_goes (by decide)⟩

theorem witness_StepKeepsTheDevicesLegal :
    State.reset.setup.periods.wf = true ∧ State.reset.timerLegal ∧ State.reset.hdmaLegal ∧
      ∃ t, step State.reset = .next t :=
  ⟨by decide, by unfold State.timerLegal; decide, by unfold State.hdmaLegal; decide, exists_of_goes (by decide)⟩

theorem witness_StepKeepsTheControlLegal :
    State.reset.controllerLegal ∧ State.reset.enableLegal ∧ ∃ t, step State.reset = .next t :=
  ⟨⟨rfl, rfl, rfl, rfl⟩, nofun, exists_of_goes (by decide)⟩

/-- The configuration with a save file of the given bytes and 2 KiB of external RAM. -/
def saved (bytes : List Byte) : Setup :=
  { baselineSetup with cart := { baselineSetup.cart with ramBytes := 2048, save := some bytes } }

theorem witness_ResetMeetsTheInvariants :
    baselineSetup.wf = true ∧ baselineSetup.reset = defaultReset ∧ (saved [0x5A]).cart.wf = false ∧
      ({ baselineSetup.cart with romBanks := 3 } : Cart).wf = false := ⟨by decide, rfl, by decide, by decide⟩

theorem witness_ResetValuesFollowTheResetRecord :
    baselineSetup.boot = none ∧ baselineSetup.variant = .dmg ∧
      ({ baselineSetup with variant := .cgb } : Setup).variant = .cgb ∧
      ({ baselineSetup with boot := some [] } : Setup).boot ≠ none ∧ 2 ≤ baselineSetup.cart.romBanks ∧
      baselineSetup.reset = defaultReset ∧ baselineSetup.cart.save = none ∧ 0x42 ∉ [0x40, 0x41, 0x47, 0x48, 0x49] ∧
      (saved (List.replicate 2048 0x5A)).cart.save = some (List.replicate 2048 0x5A) ∧
      (List.replicate 2048 (0x5A : Byte)).length = (saved (List.replicate 2048 0x5A)).cart.ramBytes ∧
      ([0x5A] : List Byte).length ≠ (saved [0x5A]).cart.ramBytes :=
  ⟨rfl, rfl, rfl, nofun, by decide, rfl, rfl, by decide, rfl, List.length_replicate, by decide⟩

/-! ### Fatal conditions, interrupts, halt and stop (Parts 2.7, 3.1, 3.5 of 95_test_vectors.md) -/

/-- The fatal condition a Processor step ends in, and the `pc` it leaves. -/
def fatalOf (o : Out) : Option (FatalInfo × Word) :=
  match o with
  | .next _ => none
  | .fault (.processorFault info t) => some (info, t.cpu.pc)
  | .fault (.pixelProcessorFault _ _) => none
  | .refused _ => none

/-- Vector Y10. -/
theorem test_Y10_undefined_opcode :
    fatalOf (processorStep (ready (cpuOf 0 0 0 0 0 0 0 0 0xD000 0xC000 0) [] [0xDD])) =
      some (.opcode 0xDD 0xC000, 0xC001) := by decide

/-- Vector Y11. -/
theorem test_Y11_undefined_opcode :
    fatalOf (processorStep (ready (cpuOf 0 0 0 0 0 0 0 0 0xD000 0xC010 0) [] [0xFC])) =
      some (.opcode 0xFC 0xC010, 0xC011) := by decide

/-- Vector M5: no controller, so external RAM has no backing. -/
theorem test_M5_read_of_disabled_external_ram :
    fatalOf (processorStep (ready (cpuOf 0 0 0 0 0 0 0 0 0xD000 0xC000 0) [] [0xFA, 0x00, 0xA0])) =
      some (.address 0xA000, 0xC003) := by decide

/-- Vector M8. -/
theorem test_M8_write_without_backing :
    fatalOf (processorStep (ready (cpuOf 0 0 0 0 0 0 0xFE 0xFF 0xD000 0xC000 0) [] [0x36, 0x00])) =
      some (.address 0xFEFF, 0xC002) := by decide

/-- Vector M1: the echo. -/
theorem test_M1_echo :
    ran (cpuOf 0x77 0 0 0 0 0 0 0 0xD000 0xC000 0) [] [0xEA, 0x23, 0xE1] [0xC123, 0xE123] =
      some (cpuOf 0x77 0 0 0 0 0 0 0 0xD000 0xC003 16, [some 0x77, some 0x77]) := by decide

/-- Vector I1, step 1: of V-Blank and Timer the V-Blank interrupt is taken after the `NOP`, at a cost of 24. -/
theorem test_I1_priority :
    ran { cpuOf 0 0 0 0 0 0 0 0 0xD000 0xC000 0 with ime := true } [(0xFFFF, 0x05), (0xFF0F, 0x05)] [0x00]
        [0xCFFE, 0xCFFF, 0xFF0F] =
      some (cpuOf 0 0 0 0 0 0 0 0 0xCFFE 0x0040 24, [some 0x01, some 0xC0, some 0x04]) := by decide

/-- Vector I3, step 2: the enable that `EI` left takes effect after the `NOP`, and the dispatch follows at once. -/
theorem test_I3_delayed_enable :
    ran { cpuOf 0 0 0 0 0 0 0 0 0xD000 0xC001 0 with imePending := true } [(0xFFFF, 0x01), (0xFF0F, 0x01)] [0x00]
        [0xCFFE, 0xCFFF, 0xFF0F] =
      some (cpuOf 0 0 0 0 0 0 0 0 0xCFFE 0x0040 24, [some 0x02, some 0xC0, some 0x00]) := by decide

/-- Vector I7, step 9: a halted step that finds the request wakes and dispatches; the return address is `C001`. -/
theorem test_I7_halt_wakes_and_dispatches :
    ran { cpuOf 0 0 0 0 0 0 0 0 0xD000 0xC001 0 with ime := true, halt := true } [(0xFFFF, 0x04), (0xFF0F, 0x04)] []
        [0xCFFE, 0xCFFF, 0xFF0F] =
      some (cpuOf 0 0 0 0 0 0 0 0 0xCFFE 0x0050 24, [some 0x01, some 0xC0, some 0x00]) := by decide

/-- Vector Y9, second step: the armed switch toggles the speed bit and the stop ends. -/
theorem test_Y9_speed_switch :
    (match processorStep (asCgb (ready { cpuOf 0 0 0 0 0 0 0 0 0xD000 0xC002 0 with stop := true } [(0xFF4D,
      0x01)] [])) with
      | .next t => some (t.cpu.stop, key1 t, t.cpu.pc, t.cpu.cycI)
      | .fault _ => none
      | .refused _ => none) = some (false, 0x80, 0xC002, 4) := by decide

/-! ### Bank control, DMA and devices (Parts 3.2 to 3.5) -/

/-- The bank indices after writes. -/
def banksAfter (kind : Controller) (ramBytes : Nat) (writes : List (Word × Byte)) : Nat × Nat :=
  let s := writes.foldl (fun s w => bankWrite w.1 w.2 s) (withCart kind ramBytes State.reset)
  (romBank s, ramBank s)

/-- Vectors B6, B7, B7b. -/
theorem test_B6_B7_controller_a :
    banksAfter .a 0 [(0x4000, 0x02), (0x2000, 0x00)] = (0x41, 0) ∧
      banksAfter .a 0x8000 [(0x4000, 0x03), (0x2000, 0x12)] = (0x72, 0) ∧
      banksAfter .a 0x8000 [(0x4000, 0x03), (0x2000, 0x12), (0x6000, 0x01)] = (0x12, 3) := by decide

/-- Vectors B9, B9b. -/
theorem test_B9_controller_b :
    banksAfter .b 0x8000 [(0x2000, 0x20), (0x4000, 0x02)] = (0x21, 2) ∧
      banksAfter .b 0x8000 [(0x2000, 0x7F)] = (0x7F, 0) := by decide

/-- The next state of a bus operation. -/
def stateOf (r : Res Unit) : State :=
  match r with
  | .ok _ s => s
  | .fatal _ s => s

set_option maxRecDepth 20000 in
/-- Vector M9 with `A = FF`: the first byte copied is the read of `P1`. -/
theorem test_M9_oam_dma_from_the_io_window :
    Memory.get (stateOf (dmaWrite 0xFF State.reset)).mem.oam 0 = 0xCF ∧
      io (stateOf (dmaWrite 0xFF State.reset)) 0x46 = 0xFF := by decide

/-- Vector H1: an immediate transfer of two chunks. -/
theorem test_H1_immediate_transfer :
    (fun t : State => (t.hdma, Memory.get t.mem.vram 0x810, Memory.get t.mem.vram 0x830))
      (stateOf (hdma5Write 0x01
        (poked [(0xC100, 0xA0), (0xFF51, 0xC1), (0xFF52, 0x07), (0xFF53, 0x08), (0xFF54,
          0x1F)] (asCgb State.reset)))) =
      (⟨0xC120, 0x8830, 0, false⟩, 0xA0, 0x00) := by decide

/-- Vector T3.1: with period 16 the 16th cycle counts, and an overflow reloads from `TMA` and requests interrupt 2. -/
theorem test_T3_main_counter :
    (fun t : State => (timaReg t, ifReg t, t.timer.timaAcc))
        (timaAdvance 4 { poked [(0xFF07, 5), (0xFF05, 0xFF), (0xFF06, 0xAB)] State.reset with
          timer := ⟨0, 12, false, 1⟩ }) = (0xAB, 0x04, 0) := by decide

/-- Vector T2: the advance after a write to `DIV` discards its own cycles. -/
theorem test_T2_divider_reset :
    (fun t : State => (divReg t, t.timer.divAcc, t.timer.divReset))
      (divAdvance 12 { State.reset with timer := ⟨160, 0, true, 0⟩ }) = (0, 0, false) := by decide

/-- Vector Q1 at `cyc_t` = 456: the next line, with the coincidence flag cleared. -/
theorem test_Q1_next_line :
    (fun t : State => (ly t, stat t, t.ppu.cyc)) (stateOf (ppuAdvance 4 (onLine 0x04 0 200))) =
      (1, 0x02, 0) := by decide

/-- Vector Q1 at `cyc_t` = 65664: V-blank is entered, its interrupt requested, the frame handed over. -/
theorem test_Q1_enters_vblank :
    (fun t : State => (ly t, stat t, ifReg t, t.host.frameCount)) (stateOf (ppuAdvance 4 (onLine 0x00 143 200))) =
      (144, 0x01, 0x01, 1) := by decide

/-- Vector Q4: turning the display off forces line 0 and H-blank, with the coincidence found and no request. -/
theorem test_Q4_display_off :
    (fun t : State => (lcdc t, ly t, stat t, ifReg t, t.ppu.cyc)) (lcdcWrite 0x11 (onLine 0x07 0 40)) =
      (0x11, 0, 0x04, 0, 0) := by decide

/-- R432, R433: a pixel of tile 0 whose two planes hold `FF` at the top left corner has index 3. -/
theorem test_background_pixel :
    (backgroundPixel (poked [(0x8000, 0xFF), (0x8001, 0xFF)] State.reset) 0 0).1.index = 3 := by decide

/-! ### Parameters (R8, R9) -/

/-- The baseline with `NOP` at 12 cycles, `CB 37` at 20, a dispatch of 32,
an idle halt of 8 and a divider period of 16. -/
def tuned (s : State) : State :=
  { s with
    setup := { s.setup with
      costs := { s.setup.costs with
        cycles := (12 :: (defaultCycles.headD []).tail) :: defaultCycles.tail
        cyclesCb := List.replicate 16 (List.replicate 16 20), intDispatch := 32, haltIdle := 8 }
      periods := { s.setup.periods with div := 16 } } }

/-- R8, R153, R362, R364: the costs are those of the configuration. -/
theorem test_costs_are_parameters :
    ((fun o : Out => match o with
      | .next t => some t.cpu.cycI
      | .fault _ => none
      | .refused _ => none) <$>
      [processorStep (tuned (at3 0xC100 0xD000 0xC000 [0x00])), processorStep (tuned (at3 0xC100 0xD000 0xC000 [0xCB,
        0x37])),
        processorStep (tuned (enabled (withInts 1 1 (at3 0xC100 0xD000 0xC000 [0x00])))),
        processorStep (tuned (halted State.reset))]) = [some 12, some 20, some 44, some 8] := by decide

/-- R8, R382: so is the divider's period. -/
theorem test_divider_period_is_a_parameter : divReg (divAdvance 40 (tuned State.reset)) = 2 := by decide

/-- U7 of 93_implementation_defined.md: a session of a malformed cartridge or with a period of zero does not start. -/
theorem test_power_on_refuses :
    powerOn { baselineSetup with cart := { baselineSetup.cart with romBanks := 3 } } = .refused .malformedCart ∧
      powerOn { baselineSetup with periods := { defaultPeriods with div := 0 } } = .refused .malformedParameters :=
  ⟨rfl, rfl⟩

/-- R470: the baseline's session starts in the reset state. -/
theorem test_power_on_starts : powerOn baselineSetup = .next State.reset := rfl

end Sys2Proof.Tests
end

section
/-! PROOFS. The 8-bit loads (40_load8.md) with the immediate loads and `LD SP,HL`: what a store to plain storage leaves,
what a register write leaves, one lemma for each way an instruction loads or stores, and the three statements. -/

namespace Sys2Proof.Machine

/-! ### Stores to plain storage -/

/-- A store to plain storage moves no bank and no overlay: every address names the place it named (R81). -/
theorem locate_writeByte_plain {s t : State} {addr : Word} {v : Byte} (hp : plainAt s addr = true)
    (h : writeByte s addr v = .ok () t) (a : Word) : locate t a = locate s a := by
  rcases writeByte_cases h with ⟨⟨_, hl⟩ | ⟨_, hl⟩, -⟩ | ⟨_, -, rfl⟩ | ⟨_, -, rfl⟩ | ⟨_, -, rfl⟩ | ⟨_, -, rfl⟩ |
    ⟨_, hl, -⟩ | ⟨_, -, rfl⟩ | ⟨-, rfl⟩
  case inl.inl | inl.inr | inr.inr.inr.inr.inr.inl => simp [plainAt, hl] at hp
  all_goals rfl

/-- A byte stored to plain storage reads back (R81, R82). -/
theorem readByte_writeByte_plain {s t : State} {addr : Word} {v : Byte} (hc : s.mem.canonical = true)
    (hp : plainAt s addr = true) (h : writeByte s addr v = .ok () t) : readByte t addr = some v := by
  obtain ⟨hvram, heram, hwram, hoam, -, hhram, -, -⟩ := (Mems.canonical_iff s.mem).mp hc
  rw [readByte, locate_writeByte_plain hp h]
  rcases writeByte_cases h with ⟨⟨_, hl⟩ | ⟨_, hl⟩, -⟩ | ⟨_, hl, rfl⟩ | ⟨_, hl, rfl⟩ | ⟨_, hl, rfl⟩ | ⟨_, hl, rfl⟩ |
    ⟨_, hl, -⟩ | ⟨_, hl, rfl⟩ | ⟨hl, rfl⟩
  case inl.inl | inl.inr | inr.inr.inr.inr.inr.inl => simp [plainAt, hl] at hp
  case inr.inl => simp [hl, readLoc, Memory.get_put_self hvram]
  case inr.inr.inl => simp [hl, readLoc, Memory.get_put_self heram]
  case inr.inr.inr.inl => simp [hl, readLoc, Memory.get_put_self hwram]
  case inr.inr.inr.inr.inl => simp [hl, readLoc, Memory.get_put_self hoam]
  case inr.inr.inr.inr.inr.inr.inl => simp [hl, readLoc, Memory.get_put_self hhram]
  case inr.inr.inr.inr.inr.inr.inr => rw [hl]; rfl

/-- What an address reads as does not depend on the Processor (R81). -/
theorem readByte_onlyCpu {s t : State} (h : OnlyCpu s t) (addr : Word) : readByte t addr = readByte s addr := by
  rw [h]
  rfl

/-! ### Ways to continue -/

theorem withRead_some {s : State} {addr : Word} {v : Byte} (h : readByte s addr = some v) (k : Byte → Out) :
    withRead addr s k = k v := by
  simp only [withRead, h]

theorem withRead_none {s : State} {addr : Word} (h : readByte s addr = none) (k : Byte → Out) :
    withRead addr s k = busFault addr s := by
  simp only [withRead, h]
  rfl

theorem withWrite_ok {s u : State} {addr : Word} {v : Byte} (h : writeByte s addr v = .ok () u) (k : State → Out) :
    withWrite addr v s k = k u := by
  simp only [withWrite, h, afterBus]

theorem withWrite_fatal {s u : State} {addr bad : Word} {v : Byte} (h : writeByte s addr v = .fatal bad u)
    (k : State → Out) : withWrite addr v s k = busFault bad u := by
  simp only [withWrite, h, afterBus]
  rfl

/-! ### Registers -/

/-- A pair of the table `rp` is not `AF` (R143). -/
theorem ne_af_of_inRp {rr : Reg16} (h : rr.inRp = true) : rr ≠ .af := by
  rintro rfl
  cases h

/-- A register an encoding can name is not `F` (R143, R170). -/
theorem ne_f_of_nameable {r : Reg8} (h : r.nameable = true) : r ≠ .f := by
  rintro rfl
  cases h

/-- A write of a register other than `F` keeps the flags (R22). -/
theorem setReg8_cpu_flags {r : Reg8} (h : r ≠ .f) (v : Byte) (s : State) : (setReg8 r v s).cpu.flags = s.cpu.flags := by
  cases r with
  | f => exact absurd rfl h
  | _ => rfl

/-- A write of a pair other than `AF` keeps the flags (R21, R22). -/
theorem setReg16_cpu_flags {rr : Reg16} (h : rr ≠ .af) (v : Word) (s : State) :
    (setReg16 rr v s).cpu.flags = s.cpu.flags := by
  cases rr with
  | af => exact absurd rfl h
  | _ => rfl

/-- The registers beside `F` that a pair is a view of (R21); `SP` is none (R23). -/
def pairRegs : Reg16 → List Reg8
  | .af => [.a]
  | .bc => [.b, .c]
  | .de => [.d, .e]
  | .hl => [.h, .l]
  | .sp => []

/-- A write of a pair leaves every register but its bytes alone (R21). -/
theorem reg8_setReg16_other {rr : Reg16} {r : Reg8} (hf : r ≠ .f) (hr : r ∉ pairRegs rr) (v : Word) (s : State) :
    reg8 (setReg16 rr v s) r = reg8 s r := by
  cases rr <;> cases r <;> simp_all [pairRegs, reg8, setReg16]

@[simp] theorem reg8_setCost (n : Nat) (s : State) (r : Reg8) : reg8 (setCost n s) r = reg8 s r := by cases r <;> rfl

@[simp] theorem reg16_setCost (n : Nat) (s : State) (rr : Reg16) : reg16 (setCost n s) rr = reg16 s rr := by
  cases rr <;> rfl

end Sys2Proof.Machine

namespace Sys2Proof.Claims

open Sys2Proof.Machine

/-! ### Encodings and costs -/

/-- A well-formed instruction is coded as its encoding (R140, R146). -/
theorem codedAs_encode {i : Instr} (h : Laws.Encoding.Statement i) (hwf : i.wf = true) : codedAs (encode i) i :=
  (h hwf).1

/-- The cost of an instruction whose first byte is not the escape is that byte's entry of `CYCLES` (R153). -/
theorem costOf_eq_cyclesOf {i : Instr} {op : Byte} {rest : List Byte} (hcode : encode i = op :: rest) (hop : op ≠ 0xCB)
    (s : State) : costOf s.setup.costs i = cyclesOf s op := by
  cases rest with
  | nil => exact costOf_one hcode
  | cons d rest => exact costOf_more hcode hop

/-- An opcode packed from its fields as a number (R142). -/
theorem packXyz_toNat (x : BitVec 2) (y z : BitVec 3) :
    (packXyz x y z).toNat = (x.toNat * 8 + y.toNat) * 8 + z.toNat := by
  rw [packXyz, BitVec.toNat_append, BitVec.toNat_append, ← Nat.shiftLeft_add_eq_or_of_lt z.isLt,
    ← Nat.shiftLeft_add_eq_or_of_lt y.isLt, Nat.shiftLeft_eq, Nat.shiftLeft_eq]

/-- No opcode of the quarters `x = 0` to `x = 2` is the escape byte (R142, R148, R149). -/
theorem packXyz_ne_escape {x : BitVec 2} (hx : x ≠ 3) (y z : BitVec 3) : packXyz x y z ≠ 0xCB := by
  intro h
  have hnat := packXyz_toNat x y z
  rw [h] at hnat
  bv_omega

/-- `LD rr,d16` is coded as its opcode and the immediate, low byte first (R144, R202). -/
theorem encode_ldRrD16 (rr : Reg16) (d16 : Word) :
    encode (.ldRrD16 rr d16) = [0b00#2 ++ rr.index ++ 0b0001#4, loByte d16, hiByte d16] := by
  cases rr <;> rfl

/-! ### The frame of a register write -/

/-- Setting the step's cost is within every register frame. -/
theorem registerFrame.setCost {s t : State} {regs : List Reg8} {sp pc : Bool} (h : registerFrame s t regs sp pc)
    (n : Nat) : registerFrame s (setCost n t) regs sp pc := by
  obtain ⟨hcpu, hread, hregs, hrest⟩ := h
  exact ⟨hcpu.trans (onlyCpu_cpu _ _), hread, fun r hf hr => (reg8_setCost n t r).trans (hregs r hf hr), hrest⟩

theorem registerFrame_setReg8 (r : Reg8) (v : Byte) (s : State) :
    registerFrame s (setReg8 r v s) [r] false false := by
  have hcpu := onlyCpu_setReg8 r v s
  refine ⟨hcpu, readByte_onlyCpu hcpu, fun r' _ hr => reg8_setReg8_other s r r' v (by simpa using hr), ?_⟩
  simp

/-- `LD rr,d16` may write the bytes of its pair (R202). -/
theorem registersWritten_ldRrD16 (rr : Reg16) (d16 : Word) :
    registersWritten (.ldRrD16 rr d16) = pairRegs rr := by
  cases rr <;> rfl

/-- A write of a pair changes its bytes only, and of `SP` that only (R21, R23, R202). -/
theorem registerFrame_setReg16 (rr : Reg16) (v : Word) (s : State) :
    registerFrame s (setReg16 rr v s) (registersWritten (.ldRrD16 rr v)) (rr == .sp) false := by
  have hcpu := onlyCpu_setReg16 rr v s
  refine ⟨hcpu, readByte_onlyCpu hcpu, fun r hf hr => ?_, fun hsp => ?_, by simp⟩
  · rw [registersWritten_ldRrD16] at hr
    exact reg8_setReg16_other hf hr v s
  · cases rr with
    | sp => cases hsp
    | _ => rfl

/-! ### Loads -/

/-- An instruction that writes one register loads it: the register takes the value and the rest is framed. -/
theorem loads_reg8 {i : Instr} {op : Byte} {rest : List Byte} {r : Reg8} {v : Byte} {s : State}
    (hexec : exec i s = done i (setReg8 r v s)) (hcode : encode i = op :: rest) (hop : op ≠ 0xCB)
    (hr : r.nameable = true) :
    ∃ t, exec i s = .next t ∧ reg8 t r = v ∧ t.cpu.flags = s.cpu.flags ∧ t.cpu.cycI = cyclesOf s op ∧
      registerFrame s t [r] false false := by
  have hf := ne_f_of_nameable hr
  refine ⟨_, hexec, ?_, setReg8_cpu_flags hf v s, ?_, (registerFrame_setReg8 r v s).setCost _⟩
  · rw [reg8_setCost, reg8_setReg8_self s r v hf]
  · rw [setCost_cpu_cycI, setReg8_setup, costOf_eq_cyclesOf hcode hop]

/-- `LD rr,d16` loads the pair: it takes the value and the rest is framed (R202). -/
theorem loads_reg16 (rr : Reg16) (d16 : Word) (s : State) (hrr : rr.inRp = true) :
    ∃ t, exec (.ldRrD16 rr d16) s = .next t ∧ reg16 t rr = d16 ∧ t.cpu.flags = s.cpu.flags ∧
      t.cpu.cycI = cyclesOf s (0b00#2 ++ rr.index ++ 0b0001#4) ∧
      registerFrame s t (registersWritten (.ldRrD16 rr d16)) (rr == .sp) false := by
  have haf := ne_af_of_inRp hrr
  have hop : 0b00#2 ++ rr.index ++ 0b0001#4 ≠ 0xCB := by cases rr <;> decide
  refine ⟨_, rfl, ?_, setReg16_cpu_flags haf d16 s, ?_, (registerFrame_setReg16 rr d16 s).setCost _⟩
  · rw [reg16_setCost, reg16_setReg16_self s rr d16 haf]
  · rw [setCost_cpu_cycI, setReg16_setup, costOf_eq_cyclesOf (encode_ldRrD16 rr d16) hop]

/-- A load that reads the byte at `addr` and then always completes. -/
theorem readsByte_of_withRead {i : Instr} {s : State} {addr : Word} {k : Byte → Out} {next : Byte → State}
    (hexec : exec i s = withRead addr s k) (hk : ∀ v, k v = .next (next v)) : readsByte i s addr next :=
  ⟨fun v hv => by rw [hexec, withRead_some hv, hk], fun hv => by rw [hexec, withRead_none hv]⟩

/-- A load of `A` from memory (R175, R176, R179, R181, R183). -/
theorem readsByte_toA {i : Instr} {op : Byte} {rest : List Byte} {s : State} {addr : Word}
    (hexec : exec i s = withRead addr s fun v => done i (setReg8 .a v s)) (hcode : encode i = op :: rest)
    (hop : op ≠ 0xCB) :
    readsByte i s addr fun v => { s with cpu := { s.cpu with a := v, cycI := cyclesOf s op } } :=
  readsByte_of_withRead hexec fun v => by
    rw [done, setReg8_setup, costOf_eq_cyclesOf hcode hop]
    rfl

/-- A load of `A` from memory that then sets `HL` to `w` (R185, R186). -/
theorem readsByte_toA_setHl {i : Instr} {op : Byte} {rest : List Byte} {s : State} {addr w : Word}
    (hexec : exec i s = withRead addr s fun v => done i (setReg16 .hl w (setReg8 .a v s)))
    (hcode : encode i = op :: rest) (hop : op ≠ 0xCB) :
    readsByte i s addr fun v => { s with
      cpu := { s.cpu with a := v, h := hiByte w, l := loByte w, cycI := cyclesOf s op } } :=
  readsByte_of_withRead hexec fun v => by
    rw [done, setReg16_setup, setReg8_setup, costOf_eq_cyclesOf hcode hop]
    rfl

/-! ### Stores -/

/-- An instruction that makes one store and then changes registers only. The end `k` may rest on what the store leaves
alone: the setup and the Processor. -/
theorem storesByte_of_withWrite {i : Instr} {s : State} {addr : Word} {v : Byte} {k : State → Out}
    {after : State → State} (hexec : exec i s = withWrite addr v s k)
    (hk : ∀ u, u.setup = s.setup → u.cpu = s.cpu → k u = .next (after u)) (hcpu : ∀ u, OnlyCpu u (after u)) :
    storesByte i s addr v after := by
  have hok : ∀ u, writeByte s addr v = .ok () u → exec i s = .next (after u) := by
    intro u hu
    obtain ⟨hsetup, hsame, -⟩ := writeByte_frame hu
    rw [hexec, withWrite_ok hu, hk u hsetup hsame]
  refine ⟨hok, fun bad u hu => by rw [hexec, withWrite_fatal hu], fun hc hp => ?_⟩
  obtain ⟨u, hu⟩ := writeByte_plain hp v
  exact ⟨after u, hok u hu, (readByte_onlyCpu (hcpu u) addr).trans (readByte_writeByte_plain hc hp hu)⟩

/-- A store that ends the instruction (R173, R174, R177, R178, R180, R182, R184). -/
theorem storesByte_costing {i : Instr} {op : Byte} {rest : List Byte} {s : State} {addr : Word} {v : Byte}
    (hexec : exec i s = withWrite addr v s (done i)) (hcode : encode i = op :: rest) (hop : op ≠ 0xCB) :
    storesByte i s addr v (costing (cyclesOf s op)) := by
  refine storesByte_of_withWrite hexec (fun u hsetup _ => ?_) fun u => onlyCpu_cpu u _
  rw [done, hsetup, costOf_eq_cyclesOf hcode hop]
  rfl

/-- A store after which `HL` moves by `move`; the store itself leaves `HL` alone (R187, R188). -/
theorem storesByte_moveHl {i : Instr} {op : Byte} {rest : List Byte} {s : State} {addr : Word} {v : Byte}
    {move : Word → Word}
    (hexec : exec i s = withWrite addr v s fun u => done i (setReg16 .hl (move (reg16 u .hl)) u))
    (hcode : encode i = op :: rest) (hop : op ≠ 0xCB) :
    storesByte i s addr v fun u => { u with
      cpu := { u.cpu with
        h := hiByte (move (s.cpu.h ++ s.cpu.l)), l := loByte (move (s.cpu.h ++ s.cpu.l)), cycI := cyclesOf s op } } := by
  refine storesByte_of_withWrite hexec (fun u hsetup hsame => ?_) fun u => onlyCpu_cpu u _
  have hcost : costOf u.setup.costs i = cyclesOf s op := by rw [hsetup, costOf_eq_cyclesOf hcode hop]
  have hhl : reg16 u .hl = s.cpu.h ++ s.cpu.l := by rw [reg16, hsame]
  rw [done, setReg16_setup, hcost, hhl]
  rfl

/-! ### The statements -/

/-- Settles O11: each store is one `withWrite` whose end sets the cost and, for `(HL+)` and `(HL-)`, moves `HL`. -/
theorem storesWriteTheByteThroughTheBus : Obligations.StoresWriteTheByteThroughTheBus := fun s =>
  ⟨fun r hr => ⟨codedAs_encode (Laws.Encoding.ldHlR r) hr,
      storesByte_costing rfl rfl (packXyz_ne_escape (by decide) 6 r.index)⟩,
    fun d8 => ⟨codedAs_encode (Laws.Encoding.ldHlD8 d8) rfl, storesByte_costing rfl rfl (by decide)⟩,
    codedAs_encode Laws.Encoding.ldBcA rfl, storesByte_costing rfl rfl (by decide),
    codedAs_encode Laws.Encoding.ldDeA rfl, storesByte_costing rfl rfl (by decide),
    codedAs_encode Laws.Encoding.ldhCA rfl, storesByte_costing rfl rfl (by decide),
    fun a8 => ⟨codedAs_encode (Laws.Encoding.ldhA8A a8) rfl, storesByte_costing rfl rfl (by decide)⟩,
    fun a16 => ⟨codedAs_encode (Laws.Encoding.ldA16A a16) rfl, storesByte_costing rfl rfl (by decide)⟩,
    codedAs_encode Laws.Encoding.ldHliA rfl, storesByte_moveHl (move := (· + 1)) rfl rfl (by decide),
    codedAs_encode Laws.Encoding.ldHldA rfl, storesByte_moveHl (move := (· - 1)) rfl rfl (by decide)⟩

/-- Settles O9: each load is one register write and the cost. -/
theorem registerLoadsCopyTheValue : Obligations.RegisterLoadsCopyTheValue := by
  refine fun s => ⟨fun dst src hdst hsrc => ⟨?_, ?_⟩, fun dst d8 hdst => ⟨?_, ?_⟩, fun rr d16 hrr => ⟨?_, ?_⟩, ?_, ?_⟩
  · exact codedAs_encode (Laws.Encoding.ldRR dst src) (Bool.and_eq_true_iff.mpr ⟨hdst, hsrc⟩)
  · exact loads_reg8 rfl rfl (packXyz_ne_escape (by decide) dst.index src.index) hdst
  · exact codedAs_encode (Laws.Encoding.ldRD8 dst d8) hdst
  · exact loads_reg8 rfl rfl (packXyz_ne_escape (by decide) dst.index 6) hdst
  · rw [← encode_ldRrD16 rr d16]
    exact codedAs_encode (Laws.Encoding.ldRrD16 rr d16) hrr
  · exact loads_reg16 rr d16 s hrr
  · exact codedAs_encode Laws.Encoding.ldSpHl rfl
  · rfl

/-- Settles O10: each load is one `withRead` whose end writes the register, for `(HL+)` and `(HL-)` moves `HL`, and sets
the cost. -/
theorem loadsFromMemoryTakeTheByte : Obligations.LoadsFromMemoryTakeTheByte := fun s =>
  ⟨fun r hr => ⟨codedAs_encode (Laws.Encoding.ldRHl r) hr,
      fun _ hv => loads_reg8 (withRead_some hv _) rfl (packXyz_ne_escape (by decide) r.index 6) hr,
      fun hv => withRead_none hv _⟩,
    codedAs_encode Laws.Encoding.ldABc rfl, readsByte_toA rfl rfl (by decide),
    codedAs_encode Laws.Encoding.ldADe rfl, readsByte_toA rfl rfl (by decide),
    codedAs_encode Laws.Encoding.ldhAC rfl, readsByte_toA rfl rfl (by decide),
    fun a8 => ⟨codedAs_encode (Laws.Encoding.ldhAA8 a8) rfl, readsByte_toA rfl rfl (by decide)⟩,
    fun a16 => ⟨codedAs_encode (Laws.Encoding.ldAA16 a16) rfl, readsByte_toA rfl rfl (by decide)⟩,
    codedAs_encode Laws.Encoding.ldAHli rfl, readsByte_toA_setHl rfl rfl (by decide),
    codedAs_encode Laws.Encoding.ldAHld rfl, readsByte_toA_setHl rfl rfl (by decide)⟩

end Sys2Proof.Claims
end

section
/-! PROOFS. The 8-bit arithmetic and logic (42_alu8.md): what each function of R215 and R244 computes over the integers
or bit by bit, one lemma for each way an instruction takes its result, and the five statements. -/

namespace Sys2Proof.Machine

/-! ### Results and flags -/

/-- A result byte is zero exactly when it is zero as a number: the `Z` of R215. -/
theorem beq_zero_iff_toNat (r : Byte) : (r == 0) = true ↔ r.toNat = 0 := by
  rw [beq_iff_eq, ← BitVec.toNat_inj]
  rfl

/-- A result byte is zero exactly when each of its bits is: the `Z` of R215. -/
theorem beq_zero_iff_getLsbD (r : Byte) : (r == 0) = true ↔ ∀ k, k < 8 → r.getLsbD k = false := by
  rw [beq_iff_eq]
  constructor
  · rintro rfl k -
    exact BitVec.getLsbD_zero
  · exact fun h => BitVec.eq_of_getLsbD_eq fun k hk => (h k hk).trans BitVec.getLsbD_zero.symm

theorem add8_fst_toNat (a b : Byte) (cin : Bool) :
    (add8 a b cin).1.toNat = (a.toNat + b.toNat + cin.toNat) % 256 :=
  BitVec.toNat_ofNat _ 8

theorem add8_z_iff (a b : Byte) (cin : Bool) :
    (add8 a b cin).2.z = true ↔ (a.toNat + b.toNat + cin.toNat) % 256 = 0 := by
  rw [← add8_fst_toNat]
  exact beq_zero_iff_toNat _

theorem add8_h_iff (a b : Byte) (cin : Bool) :
    (add8 a b cin).2.h = true ↔ 16 ≤ a.toNat % 16 + b.toNat % 16 + cin.toNat :=
  decide_eq_true_iff

theorem add8_c_iff (a b : Byte) (cin : Bool) :
    (add8 a b cin).2.c = true ↔ 256 ≤ a.toNat + b.toNat + cin.toNat :=
  decide_eq_true_iff

theorem sub8_fst_toNat (a b : Byte) (cin : Bool) :
    ((sub8 a b cin).1.toNat : Int) = ((a.toNat : Int) - b.toNat - cin.toNat) % 256 := by
  have hnonneg := Int.emod_nonneg ((a.toNat : Int) - b.toNat - cin.toNat) (b := 256) (by decide)
  exact (congrArg Int.ofNat (BitVec.toNat_ofInt ..)).trans (Int.toNat_of_nonneg hnonneg)

theorem sub8_z_iff (a b : Byte) (cin : Bool) :
    (sub8 a b cin).2.z = true ↔ ((a.toNat : Int) - b.toNat - cin.toNat) % 256 = 0 := by
  rw [← sub8_fst_toNat, Int.natCast_eq_zero]
  exact beq_zero_iff_toNat _

theorem sub8_h_iff (a b : Byte) (cin : Bool) :
    (sub8 a b cin).2.h = true ↔ a.toNat % 16 < b.toNat % 16 + cin.toNat := by
  refine decide_eq_true_iff.trans ?_
  omega

theorem sub8_c_iff (a b : Byte) (cin : Bool) : (sub8 a b cin).2.c = true ↔ a.toNat < b.toNat + cin.toNat := by
  refine decide_eq_true_iff.trans ?_
  omega

/-- `Inc8` over the numbers (R215, R240). -/
theorem inc8_eq (v : Byte) (old : Flags) :
    inc8 v old = (BitVec.ofNat 8 (v.toNat + 1), ⟨v.toNat == 255, false, v.toNat % 16 == 15, old.c⟩) := by
  have hr : v + 1 = BitVec.ofNat 8 (v.toNat + 1) := by bv_omega
  have hz : (v + 1 == 0) = (v.toNat == 255) := by
    rw [Bool.eq_iff_iff, beq_zero_iff_toNat, beq_iff_eq]
    bv_omega
  have hh : (v.extractLsb' 0 4 == 0xF#4) = (v.toNat % 16 == 15) := by
    rw [Bool.eq_iff_iff, beq_iff_eq, beq_iff_eq, ← BitVec.toNat_inj, BitVec.extractLsb'_toNat]
    rfl
  rw [inc8, hz, hh, hr]

/-- `Dec8` over the numbers (R215, R242). -/
theorem dec8_eq (v : Byte) (old : Flags) :
    dec8 v old = (BitVec.ofNat 8 (v.toNat + 255), ⟨v.toNat == 1, true, v.toNat % 16 == 0, old.c⟩) := by
  have hr : v - 1 = BitVec.ofNat 8 (v.toNat + 255) := by bv_omega
  have hz : (v - 1 == 0) = (v.toNat == 1) := by
    rw [Bool.eq_iff_iff, beq_zero_iff_toNat, beq_iff_eq]
    bv_omega
  have hh : (v.extractLsb' 0 4 == 0x0#4) = (v.toNat % 16 == 0) := by
    rw [Bool.eq_iff_iff, beq_iff_eq, beq_iff_eq, ← BitVec.toNat_inj, BitVec.extractLsb'_toNat]
    rfl
  rw [dec8, hz, hh, hr]

/-- Each bit of the byte `CPL` gives is the complement (R245). -/
theorem getLsbD_xor_ones (a : Byte) {k : Nat} (hk : k < 8) : (a ^^^ 0xFF).getLsbD k = !a.getLsbD k := by
  have hnot : a ^^^ 0xFF = ~~~a := BitVec.xor_allOnes
  rw [hnot, BitVec.getLsbD_not, decide_eq_true hk, Bool.true_and]

/-! ### `DAA` (R244) -/

/-- `DAA` keeps `N`. -/
theorem daa8_n (a : Byte) (f : Flags) : (daa8 a f).2.n = f.n := by
  cases hn : f.n <;> simp [daa8, hn]

theorem daa8_h (a : Byte) (f : Flags) : (daa8 a f).2.h = false := by
  cases hn : f.n <;> simp [daa8, hn]

theorem daa8_z_iff (a : Byte) (f : Flags) : (daa8 a f).2.z = true ↔ (daa8 a f).1 = 0 := by
  cases hn : f.n <;> simp [daa8, hn]

/-- After an addition the two corrections are summed: the first one leaves the low digit as it was. -/
theorem daa8_fst_toNat_add {f : Flags} (hn : f.n = false) (a : Byte) :
    (daa8 a f).1.toNat = (a.toNat + (if f.c = true ∨ 0x99 < a.toNat then 0x60 else 0) +
      (if f.h = true ∨ 9 < a.toNat % 16 then 6 else 0)) % 256 := by
  have hlow : (a + 0x60).toNat % 16 = a.toNat % 16 := by bv_omega
  have hhigh : (f.c || decide (a.toNat > 0x99)) = true ↔ f.c = true ∨ 0x99 < a.toNat := by simp
  simp only [daa8, hn, if_true, hhigh]
  by_cases hc : f.c = true ∨ 0x99 < a.toNat
  · simp only [if_pos hc, hlow]
    split <;> bv_omega
  · simp only [if_neg hc]
    split <;> bv_omega

theorem daa8_c_iff_add {f : Flags} (hn : f.n = false) (a : Byte) :
    (daa8 a f).2.c = true ↔ f.c = true ∨ 0x99 < a.toNat := by
  simp [daa8, hn]

/-- After a subtraction `H` and `C` alone say what is taken away. -/
theorem daa8_fst_toNat_sub {f : Flags} (hn : f.n = true) (a : Byte) :
    ((daa8 a f).1.toNat : Int) =
      ((a.toNat : Int) - (if f.c then 0x60 else 0) - (if f.h then 6 else 0)) % 256 := by
  simp only [daa8, hn, Bool.true_eq_false, if_false]
  split <;> split <;> bv_omega

theorem daa8_c_sub {f : Flags} (hn : f.n = true) (a : Byte) : (daa8 a f).2.c = f.c := by
  simp [daa8, hn]

/-! ### Registers -/

/-- The flags are part of no register but `F` (R22). -/
theorem reg8_setFlags {r : Reg8} (h : r ≠ .f) (f : Flags) (s : State) : reg8 (setFlags f s) r = reg8 s r := by
  cases r with
  | f => exact absurd rfl h
  | _ => rfl

end Sys2Proof.Machine

namespace Sys2Proof.Claims

open Sys2Proof.Machine

/-! ### Ways to complete -/

/-- An instruction that ends in the state `u` completes at the cost of its opcode (R153). -/
theorem exec_next_of_done {i : Instr} {op : Byte} {rest : List Byte} {s u : State} (hexec : exec i s = done i u)
    (hsetup : u.setup = s.setup) (hcode : encode i = op :: rest) (hop : op ≠ 0xCB) :
    exec i s = .next (setCost (cyclesOf s op) u) := by
  rw [hexec, done, hsetup, costOf_eq_cyclesOf hcode hop]

/-- A result taken by the accumulator and the flags is within the accumulator's frame (R215). -/
theorem accFrame_setAcc (res : Byte × Flags) (s : State) (n : Nat) : accFrame s (setCost n (setAcc res s)) n :=
  ⟨rfl, readByte_onlyCpu rfl⟩

/-- Flags alone are within the accumulator's frame (R237). -/
theorem accFrame_setFlags (f : Flags) (s : State) (n : Nat) : accFrame s (setCost n (setFlags f s)) n :=
  ⟨rfl, readByte_onlyCpu rfl⟩

/-- Setting the flags is within every register frame. -/
theorem registerFrame.setFlags {s t : State} {regs : List Reg8} {sp pc : Bool} (h : registerFrame s t regs sp pc)
    (f : Flags) : registerFrame s (setFlags f t) regs sp pc := by
  obtain ⟨hcpu, hread, hregs, hrest⟩ := h
  exact ⟨hcpu.trans (onlyCpu_cpu _ _), hread, fun r hf hr => (reg8_setFlags hf f t).trans (hregs r hf hr), hrest⟩

/-- An instruction that writes one register and all flags takes both from its result; the rest is framed. -/
theorem takes_regFlags {i : Instr} {op : Byte} {rest : List Byte} {r : Reg8} {res : Byte × Flags} {n : Nat} {f : Flags}
    {s : State} (hexec : exec i s = done i (setRegFlags r res s)) (hres : res = (BitVec.ofNat 8 n, f))
    (hcode : encode i = op :: rest) (hop : op ≠ 0xCB) (hr : r.nameable = true) :
    ∃ t, exec i s = .next t ∧ (reg8 t r).toNat = n % 256 ∧ t.cpu.flags = f ∧ t.cpu.cycI = cyclesOf s op ∧
      registerFrame s t [r] false false := by
  subst hres
  have hf := ne_f_of_nameable hr
  have hreg : reg8 (setRegFlags r (BitVec.ofNat 8 n, f) s) r = BitVec.ofNat 8 n :=
    (reg8_setFlags hf f _).trans (reg8_setReg8_self s r _ hf)
  refine ⟨_, exec_next_of_done hexec (setReg8_setup s r _) hcode hop, ?_, rfl, rfl,
    ((registerFrame_setReg8 r _ s).setFlags f).setCost _⟩
  rw [reg8_setCost, hreg, BitVec.toNat_ofNat]

/-- An instruction that stores its result's byte and then takes the flags (R241, R243). -/
theorem storesByte_flags {i : Instr} {op : Byte} {rest : List Byte} {s : State} {addr : Word} {v : Byte} {f : Flags}
    {res : Byte × Flags} (hexec : exec i s = withWrite addr res.1 s fun u => done i (setFlags res.2 u))
    (hres : res = (v, f)) (hcode : encode i = op :: rest) (hop : op ≠ 0xCB) :
    storesByte i s addr v fun u => { u with cpu := { u.cpu with flags := f, cycI := cyclesOf s op } } := by
  subst hres
  refine storesByte_of_withWrite hexec (fun u hsetup _ => ?_) fun u => onlyCpu_cpu u _
  have hcost : costOf u.setup.costs i = cyclesOf s op := by rw [hsetup, costOf_eq_cyclesOf hcode hop]
  rw [done, setFlags_setup, hcost]
  rfl

/-! ### The `alu` table -/

/-- The three instructions are the forms of one row of the `alu` table (R143), and `after` is what they do with their
operand. What `exec` and `encode` give by computation is filled in for each row. -/
structure AluRow (row : BitVec 3) (onReg : Reg8 → Instr) (onHl : Instr) (onD8 : Byte → Instr)
    (after : State → Byte → State) : Prop where
  /-- Each form is coded as its encoding. -/
  coded_reg : ∀ r, r.nameable = true → codedAs (encode (onReg r)) (onReg r)
  coded_hl : codedAs (encode onHl) onHl
  coded_d8 : ∀ d8, codedAs (encode (onD8 d8)) (onD8 d8)
  /-- The encodings are the row's opcodes: `z` is the register's index, or 6 for `(HL)` and the immediate. -/
  encode_reg : ∀ r, encode (onReg r) = [packXyz 2 row r.index] := by intros; rfl
  encode_hl : encode onHl = [packXyz 2 row 6] := by rfl
  encode_d8 : ∀ d8, encode (onD8 d8) = [packXyz 3 row 6, d8] := by intros; rfl
  /-- Each form runs `after` on its operand and ends. -/
  exec_reg : ∀ r s, exec (onReg r) s = done (onReg r) (after s (reg8 s r)) := by intros; rfl
  exec_hl : ∀ s, exec onHl s = withRead (reg16 s .hl) s fun v => done onHl (after s v) := by intros; rfl
  exec_d8 : ∀ d8 s, exec (onD8 d8) s = done (onD8 d8) (after s d8) := by intros; rfl

/-- No opcode of the immediate forms is the escape byte (R142, R150). -/
theorem packXyz_immediate_ne_escape (row : BitVec 3) : packXyz 3 row 6 ≠ 0xCB := by
  revert row
  decide

/-- A row whose `after` has an effect at every cost has it in all three forms, each at the cost of its opcode. -/
theorem AluRow.aluForms {row : BitVec 3} {onReg : Reg8 → Instr} {onHl : Instr} {onD8 : Byte → Instr}
    {after : State → Byte → State} {effect : State → Byte → Nat → State → Prop}
    (h : AluRow row onReg onHl onD8 after) (hsetup : ∀ s v, (after s v).setup = s.setup)
    (heffect : ∀ s v n, effect s v n (setCost n (after s v))) : aluForms row onReg onHl onD8 effect := by
  have hne := packXyz_ne_escape (x := 2) (by decide) row
  refine fun s => ⟨fun r hr => ⟨?_, _, ?_, heffect s _ _⟩, ?_, ⟨fun v hv => ⟨_, ?_, heffect s v _⟩, fun hv => ?_⟩,
    fun d8 => ⟨?_, _, ?_, heffect s d8 _⟩⟩
  · exact h.encode_reg r ▸ h.coded_reg r hr
  · exact exec_next_of_done (h.exec_reg r s) (hsetup s _) (h.encode_reg r) (hne r.index)
  · exact h.encode_hl ▸ h.coded_hl
  · exact exec_next_of_done ((h.exec_hl s).trans (withRead_some hv _)) (hsetup s v) h.encode_hl (hne 6)
  · exact (h.exec_hl s).trans (withRead_none hv _)
  · exact h.encode_d8 d8 ▸ h.coded_d8 d8
  · exact exec_next_of_done (h.exec_d8 d8 s) (hsetup s d8) (h.encode_d8 d8) (packXyz_immediate_ne_escape row)

/-! The eight rows (R216 to R239). -/

theorem aluRow_add : AluRow 0 .addR .addHl .addD8 fun s v => setAcc (add8 s.cpu.a v false) s where
  coded_reg r := codedAs_encode (Laws.Encoding.addR r)
  coded_hl := codedAs_encode Laws.Encoding.addHl rfl
  coded_d8 d8 := codedAs_encode (Laws.Encoding.addD8 d8) rfl

theorem aluRow_adc : AluRow 1 .adcR .adcHl .adcD8 fun s v => setAcc (add8 s.cpu.a v s.cpu.flags.c) s where
  coded_reg r := codedAs_encode (Laws.Encoding.adcR r)
  coded_hl := codedAs_encode Laws.Encoding.adcHl rfl
  coded_d8 d8 := codedAs_encode (Laws.Encoding.adcD8 d8) rfl

theorem aluRow_sub : AluRow 2 .subR .subHl .subD8 fun s v => setAcc (sub8 s.cpu.a v false) s where
  coded_reg r := codedAs_encode (Laws.Encoding.subR r)
  coded_hl := codedAs_encode Laws.Encoding.subHl rfl
  coded_d8 d8 := codedAs_encode (Laws.Encoding.subD8 d8) rfl

theorem aluRow_sbc : AluRow 3 .sbcR .sbcHl .sbcD8 fun s v => setAcc (sub8 s.cpu.a v s.cpu.flags.c) s where
  coded_reg r := codedAs_encode (Laws.Encoding.sbcR r)
  coded_hl := codedAs_encode Laws.Encoding.sbcHl rfl
  coded_d8 d8 := codedAs_encode (Laws.Encoding.sbcD8 d8) rfl

theorem aluRow_and : AluRow 4 .andR .andHl .andD8 fun s v => setAcc (and8 s.cpu.a v) s where
  coded_reg r := codedAs_encode (Laws.Encoding.andR r)
  coded_hl := codedAs_encode Laws.Encoding.andHl rfl
  coded_d8 d8 := codedAs_encode (Laws.Encoding.andD8 d8) rfl

theorem aluRow_xor : AluRow 5 .xorR .xorHl .xorD8 fun s v => setAcc (xor8 s.cpu.a v) s where
  coded_reg r := codedAs_encode (Laws.Encoding.xorR r)
  coded_hl := codedAs_encode Laws.Encoding.xorHl rfl
  coded_d8 d8 := codedAs_encode (Laws.Encoding.xorD8 d8) rfl

theorem aluRow_or : AluRow 6 .orR .orHl .orD8 fun s v => setAcc (or8 s.cpu.a v) s where
  coded_reg r := codedAs_encode (Laws.Encoding.orR r)
  coded_hl := codedAs_encode Laws.Encoding.orHl rfl
  coded_d8 d8 := codedAs_encode (Laws.Encoding.orD8 d8) rfl

theorem aluRow_cp : AluRow 7 .cpR .cpHl .cpD8 fun s v => setFlags (sub8 s.cpu.a v false).2 s where
  coded_reg r := codedAs_encode (Laws.Encoding.cpR r)
  coded_hl := codedAs_encode Laws.Encoding.cpHl rfl
  coded_d8 d8 := codedAs_encode (Laws.Encoding.cpD8 d8) rfl

/-! ### Effects -/

theorem addEffect_setAcc (s : State) (v : Byte) (cin : Bool) (n : Nat) :
    addEffect s v cin n (setCost n (setAcc (add8 s.cpu.a v cin) s)) :=
  ⟨add8_fst_toNat .., add8_z_iff .., rfl, add8_h_iff .., add8_c_iff .., accFrame_setAcc ..⟩

/-- A state whose flags are those of `Sub8` has them over the integers (R215). -/
theorem subFlags_of_flags {s t : State} {v : Byte} {cin : Bool} (h : t.cpu.flags = (sub8 s.cpu.a v cin).2) :
    subFlags s v cin t := by
  rw [subFlags, h]
  exact ⟨sub8_z_iff .., rfl, sub8_h_iff .., sub8_c_iff ..⟩

theorem subEffect_setAcc (s : State) (v : Byte) (cin : Bool) (n : Nat) :
    subEffect s v cin n (setCost n (setAcc (sub8 s.cpu.a v cin) s)) :=
  ⟨sub8_fst_toNat .., subFlags_of_flags rfl, accFrame_setAcc ..⟩

theorem compareEffect_setFlags (s : State) (v : Byte) (n : Nat) :
    compareEffect s v n (setCost n (setFlags (sub8 s.cpu.a v false).2 s)) := by
  refine ⟨subFlags_of_flags rfl, (sub8_z_iff ..).trans ?_, sub8_c_iff .., rfl, accFrame_setFlags ..⟩
  rw [← BitVec.toNat_inj, Bool.toNat_false]
  omega

/-- A result whose bits are `op` of the operands' and whose flags are those of R215 has the effect of `op`. -/
theorem logicEffect_setAcc {op : Bool → Bool → Bool} {h : Bool} {s : State} {v r : Byte}
    (hbit : ∀ k, r.getLsbD k = op (s.cpu.a.getLsbD k) (v.getLsbD k)) (n : Nat) :
    logicEffect op h s v n (setCost n (setAcc (r, ⟨r == 0, false, h, false⟩) s)) := by
  refine ⟨fun k _ => hbit k, (beq_zero_iff_getLsbD r).trans ?_, rfl, rfl, rfl, accFrame_setAcc ..⟩
  simp only [hbit]

/-! ### The statements -/

/-- Settles O16: both rows take `Add8`, whose sum and flags are those of the integers. -/
theorem additionIsExactWithItsFlags : Obligations.AdditionIsExactWithItsFlags :=
  ⟨aluRow_add.aluForms (fun _ _ => rfl) fun s v => addEffect_setAcc s v false,
    aluRow_adc.aluForms (fun _ _ => rfl) fun s v => addEffect_setAcc s v s.cpu.flags.c⟩

/-- Settles O17: the three rows take `Sub8`, whose difference and flags are those of the integers; `CP` its flags
only. -/
theorem subtractionIsExactWithItsFlags : Obligations.SubtractionIsExactWithItsFlags :=
  ⟨aluRow_sub.aluForms (fun _ _ => rfl) fun s v => subEffect_setAcc s v false,
    aluRow_sbc.aluForms (fun _ _ => rfl) fun s v => subEffect_setAcc s v s.cpu.flags.c,
    aluRow_cp.aluForms (fun _ _ => rfl) compareEffect_setFlags⟩

/-- Settles O18: the bits of the three results are those of the operands combined. -/
theorem logicIsBitwiseWithItsFlags : Obligations.LogicIsBitwiseWithItsFlags :=
  ⟨aluRow_and.aluForms (fun _ _ => rfl) fun _ _ => logicEffect_setAcc fun _ => BitVec.getLsbD_and,
    aluRow_xor.aluForms (fun _ _ => rfl) fun _ _ => logicEffect_setAcc fun _ => BitVec.getLsbD_xor,
    aluRow_or.aluForms (fun _ _ => rfl) fun _ _ => logicEffect_setAcc fun _ => BitVec.getLsbD_or⟩

/-- Settles O19: the results are `Inc8` and `Dec8` over the numbers; the byte at `(HL)` is stored before the flags. -/
theorem incrementAndDecrementKeepCarry : Obligations.IncrementAndDecrementKeepCarry := by
  refine fun s => ⟨fun r hr => ⟨?_, ?_, ?_, ?_⟩, ?_, ?_, fun v hv => ⟨?_, ?_⟩, fun hv => ⟨?_, ?_⟩⟩
  · exact codedAs_encode (Laws.Encoding.incR r) hr
  · exact codedAs_encode (Laws.Encoding.decR r) hr
  · exact takes_regFlags rfl (inc8_eq ..) rfl (packXyz_ne_escape (by decide) r.index 4) hr
  · exact takes_regFlags rfl (dec8_eq ..) rfl (packXyz_ne_escape (by decide) r.index 5) hr
  · exact codedAs_encode Laws.Encoding.incHl rfl
  · exact codedAs_encode Laws.Encoding.decHl rfl
  · exact storesByte_flags (withRead_some hv _) (inc8_eq ..) rfl (by decide)
  · exact storesByte_flags (withRead_some hv _) (dec8_eq ..) rfl (by decide)
  · exact withRead_none hv _
  · exact withRead_none hv _

/-- Settles O20: `DAA` and `CPL` take their result in the accumulator's frame, `SCF` and `CCF` change flags only. -/
theorem accumulatorAdjustmentsFollowTheirRules : Obligations.AccumulatorAdjustmentsFollowTheirRules := by
  refine ⟨codedAs_encode Laws.Encoding.daa rfl, codedAs_encode Laws.Encoding.cpl rfl,
    codedAs_encode Laws.Encoding.scf rfl, codedAs_encode Laws.Encoding.ccf rfl, fun s => ⟨?_, ?_, ?_, ?_⟩⟩
  · refine ⟨_, exec_next_of_done rfl rfl rfl (op := 0x27) (by decide), accFrame_setAcc .., daa8_n .., daa8_h ..,
      daa8_z_iff .., fun hn => ⟨daa8_fst_toNat_add hn _, daa8_c_iff_add hn _⟩,
      fun hn => ⟨daa8_fst_toNat_sub hn _, daa8_c_sub hn _⟩⟩
  · exact ⟨_, exec_next_of_done rfl rfl rfl (op := 0x2F) (by decide), fun k hk => getLsbD_xor_ones _ hk, rfl,
      accFrame_setAcc ..⟩
  · exact exec_next_of_done (i := .scf) rfl rfl rfl (by decide)
  · exact exec_next_of_done (i := .ccf) rfl rfl rfl (by decide)

end Sys2Proof.Claims
end

section
/-! PROOFS. The 16-bit arithmetic (43_alu16.md): what `ADD HL,rr` computes over the integers, what a write of one pair
leaves, and the statement. -/

namespace Sys2Proof.Machine

/-! ### Sums and flags -/

theorem addHl16_fst_toNat (a b : Word) (old : Flags) : (addHl16 a b old).1.toNat = (a.toNat + b.toNat) % 65536 :=
  BitVec.toNat_ofNat _ 16

/-- The carry out of bit 11 (R260). -/
theorem addHl16_h_iff (a b : Word) (old : Flags) :
    (addHl16 a b old).2.h = true ↔ 4096 ≤ a.toNat % 4096 + b.toNat % 4096 :=
  decide_eq_true_iff

/-- The carry out of bit 15 (R260). -/
theorem addHl16_c_iff (a b : Word) (old : Flags) : (addHl16 a b old).2.c = true ↔ 65536 ≤ a.toNat + b.toNat :=
  decide_eq_true_iff

/-- One less is 65535 more modulo `2^16` (R263). -/
theorem sub_one_toNat (v : Word) : (v - 1).toNat = (v.toNat + 65535) % 65536 := by
  rw [BitVec.toNat_sub, Nat.add_comm]
  rfl

end Sys2Proof.Machine

namespace Sys2Proof.Claims

open Sys2Proof.Machine

/-! ### Encodings -/

/-- An opcode `00 rr low` has bit 7 clear, so it is not the escape byte (R143, R148). -/
theorem pairOpcode_ne_escape (rr : Reg16) (low : BitVec 4) : 0b00#2 ++ rr.index ++ low ≠ 0xCB := by
  intro h
  have hmsb : (0b00#2 ++ rr.index ++ low).msb = false := by
    rw [BitVec.msb_append, BitVec.msb_append]
    rfl
  rw [h] at hmsb
  cases hmsb

theorem encode_addHlRr (rr : Reg16) : encode (.addHlRr rr) = [0b00#2 ++ rr.index ++ 0b1001#4] := by
  cases rr <;> rfl

theorem encode_incRr (rr : Reg16) : encode (.incRr rr) = [0b00#2 ++ rr.index ++ 0b0011#4] := by
  cases rr <;> rfl

theorem encode_decRr (rr : Reg16) : encode (.decRr rr) = [0b00#2 ++ rr.index ++ 0b1011#4] := by
  cases rr <;> rfl

/-! ### Effects -/

/-- An instruction that writes one pair and no flag: the pair takes the value and the rest is framed. -/
theorem takes_reg16 {i : Instr} {op : Byte} {rest : List Byte} {rr : Reg16} {v : Word} {s : State}
    (hexec : exec i s = done i (setReg16 rr v s)) (hregs : registersWritten i = registersWritten (.ldRrD16 rr v))
    (hcode : encode i = op :: rest) (hop : op ≠ 0xCB) (hrr : rr.inRp = true) :
    ∃ t, exec i s = .next t ∧ (reg16 t rr).toNat = v.toNat ∧ t.cpu.flags = s.cpu.flags ∧
      t.cpu.cycI = cyclesOf s op ∧ registerFrame s t (registersWritten i) (rr == .sp) false := by
  have haf := ne_af_of_inRp hrr
  refine ⟨_, exec_next_of_done hexec (setReg16_setup s rr v) hcode hop, ?_, setReg16_cpu_flags haf v s, rfl, ?_⟩
  · rw [reg16_setCost, reg16_setReg16_self s rr v haf]
  · exact hregs ▸ (registerFrame_setReg16 rr v s).setCost _

/-- `ADD HL,rr` writes the sum to `HL` and all flags but `Z` (R260). -/
theorem addHlRr_effect (s : State) (rr : Reg16) :
    ∃ t, exec (.addHlRr rr) s = .next t ∧
      (reg16 t .hl).toNat = ((reg16 s .hl).toNat + (reg16 s rr).toNat) % 65536 ∧ t.cpu.flags.z = s.cpu.flags.z ∧
      t.cpu.flags.n = false ∧
      (t.cpu.flags.h = true ↔ 4096 ≤ (reg16 s .hl).toNat % 4096 + (reg16 s rr).toNat % 4096) ∧
      (t.cpu.flags.c = true ↔ 65536 ≤ (reg16 s .hl).toNat + (reg16 s rr).toNat) ∧
      t.cpu.cycI = cyclesOf s (0b00#2 ++ rr.index ++ 0b1001#4) ∧ registerFrame s t [.h, .l] false false := by
  refine ⟨_, exec_next_of_done rfl rfl (encode_addHlRr rr) (pairOpcode_ne_escape rr _), ?_, rfl, rfl,
    addHl16_h_iff .., addHl16_c_iff .., rfl, ((registerFrame_setReg16 .hl _ s).setFlags _).setCost _⟩
  exact (congrArg BitVec.toNat (hiByte_append_loByte _)).trans (addHl16_fst_toNat ..)

/-! ### The statement -/

/-- Settles O22: `ADD HL,rr` takes the sum and flags of the integers; `INC rr` and `DEC rr` write the pair only. -/
theorem wordArithmeticIsExact : Obligations.WordArithmeticIsExact := by
  refine fun s rr hrr => ⟨?_, ?_, ?_, addHlRr_effect s rr, ?_, ?_⟩
  · exact encode_addHlRr rr ▸ codedAs_encode (Laws.Encoding.addHlRr rr) hrr
  · exact encode_incRr rr ▸ codedAs_encode (Laws.Encoding.incRr rr) hrr
  · exact encode_decRr rr ▸ codedAs_encode (Laws.Encoding.decRr rr) hrr
  · rw [← show (reg16 s rr + 1).toNat = ((reg16 s rr).toNat + 1) % 65536 from BitVec.toNat_add ..]
    exact takes_reg16 rfl rfl (encode_incRr rr) (pairOpcode_ne_escape rr _) hrr
  · rw [← sub_one_toNat]
    exact takes_reg16 rfl rfl (encode_decRr rr) (pairOpcode_ne_escape rr _) hrr

end Sys2Proof.Claims
end

section
/-! PROOFS. The rotates, shifts and bit instructions (44_rotate_shift_bit.md): where each function of R274, R293 and R295
puts every bit, one lemma for each way an instruction behind the escape completes, and the two statements. -/

namespace Sys2Proof.Machine

/-! ### Bits -/

/-- A word's two parts exchanged: the rotates and `SWAP` (R274). -/
theorem getLsbD_exchange {m n k : Nat} (v : BitVec (m + n)) (hk : k < m + n) :
    (v.extractLsb' 0 m ++ v.extractLsb' m n).getLsbD k = v.getLsbD ((k + m) % (m + n)) := by
  rw [BitVec.getLsbD_append]
  split
  · next hlow => rw [BitVec.getLsbD_extractLsb', decide_eq_true hlow, Nat.mod_eq_of_lt (by omega), Nat.add_comm k m,
      Bool.true_and]
  · next hhigh =>
    have hm : k - n < m := by omega
    have hwrap : (k + m) % (m + n) = 0 + (k - n) := by
      rw [Nat.mod_eq_sub_mod (by omega), Nat.mod_eq_of_lt (by omega)]
      omega
    rw [BitVec.getLsbD_extractLsb', decide_eq_true hm, hwrap, Bool.true_and]

/-- A bit enters a byte at bit 0 and the others move up: `Rl` and `Sla` (R274). -/
theorem getLsbD_shiftUp (v : Byte) (x : BitVec 1) {k : Nat} (hk : k < 8) :
    (v.extractLsb' 0 7 ++ x).getLsbD k = if k = 0 then x.getLsbD 0 else v.getLsbD (k - 1) := by
  rw [BitVec.getLsbD_append]
  cases k with
  | zero => rfl
  | succ j =>
    have hj : j < 7 := by omega
    simp [hj]

/-- A bit enters a byte at bit 7 and the others move down: `Rr`, `Sra` and `Srl` (R274). -/
theorem getLsbD_shiftDown (v : Byte) (x : BitVec 1) {k : Nat} (hk : k < 8) :
    (x ++ v.extractLsb' 1 7).getLsbD k = if k = 7 then x.getLsbD 0 else v.getLsbD (k + 1) := by
  rw [BitVec.getLsbD_append]
  by_cases htop : k = 7
  · subst htop
    rfl
  · have hlow : k < 7 := by omega
    simp [hlow, htop, Nat.add_comm]

/-- The mask of `RES` and `SET` has the one bit (R293, R295). -/
theorem getLsbD_bitMask (i : Nat) {k : Nat} (hk : k < 8) : (1#8 <<< i).getLsbD k = (k == i) := by
  rw [← BitVec.twoPow_eq, BitVec.getLsbD_twoPow]
  by_cases h : i = k
  · subst h
    simp [hk]
  · simp [h, Ne.symm h]

end Sys2Proof.Machine

namespace Sys2Proof.Claims

open Sys2Proof.Machine

theorem bitCleared_clearBit (v : Byte) (b : BitVec 3) : bitCleared b.toNat v (clearBit v b) := by
  intro k hk
  rw [clearBit, BitVec.getLsbD_and, BitVec.getLsbD_not, getLsbD_bitMask _ hk, decide_eq_true hk, Bool.true_and]
  rfl

theorem bitAdded_setBit (v : Byte) (b : BitVec 3) : bitAdded b.toNat v (setBit v b) := by
  intro k hk
  rw [setBit, BitVec.getLsbD_or, getLsbD_bitMask _ hk]

/-! ### Rules -/

/-- The function of an operand and the carry gives the rule's result and the bit shifted out (R274). -/
structure ComputesShift (rule : ShiftRule) (f : Byte → Bool → Byte × Bool) : Prop where
  bits : ∀ v cin, isShift rule v cin (f v cin).1
  out : ∀ v cin, (f v cin).2 = rule.out v := by intros; rfl

theorem computesShift_rlc8 : ComputesShift rlcRule fun v _ => rlc8 v where
  bits v _ _ hk := getLsbD_exchange (m := 7) (n := 1) v hk

theorem computesShift_rrc8 : ComputesShift rrcRule fun v _ => rrc8 v where
  bits v _ _ hk := getLsbD_exchange (m := 1) (n := 7) v hk

theorem computesShift_rl8 : ComputesShift rlRule rl8 where
  bits v cin k hk := by
    cases cin <;> exact getLsbD_shiftUp v _ hk

theorem computesShift_rr8 : ComputesShift rrRule rr8 where
  bits v cin k hk := by
    cases cin <;> exact getLsbD_shiftDown v _ hk

theorem computesShift_sla8 : ComputesShift slaRule fun v _ => sla8 v where
  bits v _ _ hk := getLsbD_shiftUp v _ hk

theorem computesShift_sra8 : ComputesShift sraRule fun v _ => sra8 v where
  bits v _ _ hk := by
    have htop : (v.extractLsb' 7 1).getLsbD 0 = v.getLsbD 7 := BitVec.getLsbD_extractLsb' ..
    refine (getLsbD_shiftDown v (v.extractLsb' 7 1) hk).trans ?_
    rw [htop]
    rfl

theorem computesShift_swap8 : ComputesShift swapRule fun v _ => swap8 v where
  bits v _ _ hk := getLsbD_exchange (m := 4) (n := 4) v hk

theorem computesShift_srl8 : ComputesShift srlRule fun v _ => srl8 v where
  bits v _ _ hk := getLsbD_shiftDown v _ hk

/-! ### Ways to complete behind the escape -/

/-- An instruction behind the escape that ends in the state `u` completes at the cost of its second byte (R153). -/
theorem exec_next_of_done_escaped {i : Instr} {op2 : Byte} {s u : State} (hexec : exec i s = done i u)
    (hsetup : u.setup = s.setup) (hcode : encode i = escaped op2) :
    exec i s = .next (setCost (cyclesCbOf s op2) u) := by
  rw [hexec, done, hsetup, costOf_escape hcode, cyclesCbOf]

/-- A store behind the escape after which registers only change. -/
theorem storesByte_escaped {i : Instr} {op2 : Byte} {s : State} {addr : Word} {v : Byte} {after : State → State}
    (hexec : exec i s = withWrite addr v s fun u => done i (after u)) (hcpu : ∀ u, OnlyCpu u (after u))
    (hcode : encode i = escaped op2) :
    storesByte i s addr v fun u => setCost (cyclesCbOf s op2) (after u) := by
  refine storesByte_of_withWrite hexec (fun u hsetup _ => ?_) fun u => (hcpu u).trans (onlyCpu_cpu _ _)
  have hafter : (after u).setup = s.setup := (congrArg State.setup (hcpu u)).trans hsetup
  rw [done, hafter, costOf_escape hcode, cyclesCbOf]

/-- A register write behind the escape that changes no flag: what holds of the value holds of the register after it. -/
theorem takes_reg8_escaped {i : Instr} {op2 : Byte} {r : Reg8} {v : Byte} {s : State} {P : Byte → Prop}
    (hexec : exec i s = done i (setReg8 r v s)) (hcode : encode i = escaped op2) (hr : r.nameable = true) (hv : P v) :
    ∃ t, exec i s = .next t ∧ P (reg8 t r) ∧ t.cpu.flags = s.cpu.flags ∧ t.cpu.cycI = cyclesCbOf s op2 ∧
      registerFrame s t [r] false false := by
  have hf := ne_f_of_nameable hr
  refine ⟨_, exec_next_of_done_escaped hexec (setReg8_setup s r v) hcode, ?_, setReg8_cpu_flags hf v s, rfl,
    (registerFrame_setReg8 r v s).setCost _⟩
  rwa [reg8_setCost, reg8_setReg8_self s r v hf]

/-! ### The accumulator rotates -/

theorem ComputesShift.accRotate {rule : ShiftRule} {f : Byte → Bool → Byte × Bool} (h : ComputesShift rule f)
    {i : Instr} {op : Byte} (hcoded : codedAs (encode i) i) (hcode : encode i = [op]) (hop : op ≠ 0xCB)
    (hexec : ∀ s, exec i s = done i (setAccRotate (f s.cpu.a s.cpu.flags.c) s)) : accRotate op i rule := by
  refine ⟨hcode ▸ hcoded, fun s => ⟨_, exec_next_of_done (hexec s) rfl hcode hop, h.bits _ _, ?_,
    accFrame_setAcc (_, accRotateFlags _) s _⟩⟩
  exact congrArg (Flags.mk false false false) (h.out _ _)

/-! ### The `rot` table -/

/-- The two instructions are the forms of one row of the `rot` table (R143), and `f` is what they do with their operand
and the carry. What `exec` and `encode` give by computation is filled in for each row. -/
structure RotRow (row : BitVec 3) (onReg : Reg8 → Instr) (onHl : Instr) (f : Byte → Bool → Byte × Bool) : Prop where
  /-- Each form is coded as its row's secondary opcode: `z` is the register's index, or 6 for `(HL)`. -/
  coded_reg : ∀ r, r.nameable = true → codedAs (escaped (packXyz 0 row r.index)) (onReg r)
  coded_hl : codedAs (escaped (packXyz 0 row 6)) onHl
  /-- That is its encoding, which its cost is found by. -/
  encode_reg : ∀ r, encode (onReg r) = escaped (packXyz 0 row r.index) := by intros; rfl
  encode_hl : encode onHl = escaped (packXyz 0 row 6) := by rfl
  /-- Each form runs `f` on its operand. -/
  exec_reg : ∀ r s, exec (onReg r) s = shiftReg (onReg r) r (f (reg8 s r) s.cpu.flags.c) s := by intros; rfl
  exec_hl : ∀ s, exec onHl s = shiftHl onHl (fun v => f v s.cpu.flags.c) s := by intros; rfl

/-- The register form takes its result in the register and the flags. -/
theorem RotRow.takes_reg {row : BitVec 3} {onReg : Reg8 → Instr} {onHl : Instr} {f : Byte → Bool → Byte × Bool}
    {rule : ShiftRule} (h : RotRow row onReg onHl f) (hf : ComputesShift rule f) (s : State) {r : Reg8}
    (hr : r.nameable = true) :
    ∃ t, exec (onReg r) s = .next t ∧ isShift rule (reg8 s r) s.cpu.flags.c (reg8 t r) ∧
      t.cpu.flags = ⟨reg8 t r == 0, false, false, rule.out (reg8 s r)⟩ ∧
      t.cpu.cycI = cyclesCbOf s (packXyz 0 row r.index) ∧ registerFrame s t [r] false false := by
  have hne := ne_f_of_nameable hr
  refine ⟨_, exec_next_of_done_escaped (h.exec_reg r s) (setReg8_setup s r _) (h.encode_reg r), ?_, ?_, rfl,
    ((registerFrame_setReg8 r _ s).setFlags _).setCost _⟩
  · rw [reg8_setCost, reg8_setFlags hne, reg8_setReg8_self s r _ hne]
    exact hf.bits _ _
  · rw [reg8_setCost, reg8_setFlags hne, reg8_setReg8_self s r _ hne, ← hf.out _ s.cpu.flags.c]
    rfl

/-- The `(HL)` form stores its result and then takes the flags. -/
theorem RotRow.storesByte_hl {row : BitVec 3} {onReg : Reg8 → Instr} {onHl : Instr} {f : Byte → Bool → Byte × Bool}
    {rule : ShiftRule} (h : RotRow row onReg onHl f) (hf : ComputesShift rule f) {s : State} {v : Byte}
    (hv : readByte s (reg16 s .hl) = some v) :
    storesByte onHl s (reg16 s .hl) (f v s.cpu.flags.c).1 fun u => { u with
      cpu := { u.cpu with
        flags := ⟨(f v s.cpu.flags.c).1 == 0, false, false, rule.out v⟩
        cycI := cyclesCbOf s (packXyz 0 row 6) } } := by
  rw [← hf.out v s.cpu.flags.c]
  exact storesByte_escaped ((h.exec_hl s).trans (withRead_some hv _)) (fun u => onlyCpu_cpu u _) h.encode_hl

/-- A row whose function computes a rule has that rule in both forms, each at the cost of its second byte. -/
theorem RotRow.shiftForms {row : BitVec 3} {onReg : Reg8 → Instr} {onHl : Instr} {f : Byte → Bool → Byte × Bool}
    {rule : ShiftRule} (h : RotRow row onReg onHl f) (hf : ComputesShift rule f) :
    shiftForms row onReg onHl rule :=
  fun s => ⟨fun r hr => ⟨h.coded_reg r hr, h.takes_reg hf s hr⟩, h.coded_hl,
    fun v hv => ⟨_, hf.bits v _, h.storesByte_hl hf hv⟩, fun hv => (h.exec_hl s).trans (withRead_none hv _)⟩

/-! The eight rows (R275 to R290). -/

theorem rotRow_rlc : RotRow 0 .rlcR .rlcHl fun v _ => rlc8 v where
  coded_reg r := codedAs_encode (Laws.Encoding.rlcR r)
  coded_hl := codedAs_encode Laws.Encoding.rlcHl rfl

theorem rotRow_rrc : RotRow 1 .rrcR .rrcHl fun v _ => rrc8 v where
  coded_reg r := codedAs_encode (Laws.Encoding.rrcR r)
  coded_hl := codedAs_encode Laws.Encoding.rrcHl rfl

theorem rotRow_rl : RotRow 2 .rlR .rlHl rl8 where
  coded_reg r := codedAs_encode (Laws.Encoding.rlR r)
  coded_hl := codedAs_encode Laws.Encoding.rlHl rfl

theorem rotRow_rr : RotRow 3 .rrR .rrHl rr8 where
  coded_reg r := codedAs_encode (Laws.Encoding.rrR r)
  coded_hl := codedAs_encode Laws.Encoding.rrHl rfl

theorem rotRow_sla : RotRow 4 .slaR .slaHl fun v _ => sla8 v where
  coded_reg r := codedAs_encode (Laws.Encoding.slaR r)
  coded_hl := codedAs_encode Laws.Encoding.slaHl rfl

theorem rotRow_sra : RotRow 5 .sraR .sraHl fun v _ => sra8 v where
  coded_reg r := codedAs_encode (Laws.Encoding.sraR r)
  coded_hl := codedAs_encode Laws.Encoding.sraHl rfl

theorem rotRow_swap : RotRow 6 .swapR .swapHl fun v _ => swap8 v where
  coded_reg r := codedAs_encode (Laws.Encoding.swapR r)
  coded_hl := codedAs_encode Laws.Encoding.swapHl rfl

theorem rotRow_srl : RotRow 7 .srlR .srlHl fun v _ => srl8 v where
  coded_reg r := codedAs_encode (Laws.Encoding.srlR r)
  coded_hl := codedAs_encode Laws.Encoding.srlHl rfl

/-! ### The statements -/

/-- Settles O23: each function of R274 moves the bits as its rule says, and each row of the `rot` table runs its
function on the register or between the read and the store at `(HL)`. -/
theorem rotatesAndShiftsMoveEveryBit : Obligations.RotatesAndShiftsMoveEveryBit :=
  ⟨computesShift_rlc8.accRotate (codedAs_encode Laws.Encoding.rlca rfl) rfl (by decide) fun _ => rfl,
    computesShift_rrc8.accRotate (codedAs_encode Laws.Encoding.rrca rfl) rfl (by decide) fun _ => rfl,
    computesShift_rl8.accRotate (codedAs_encode Laws.Encoding.rla rfl) rfl (by decide) fun _ => rfl,
    computesShift_rr8.accRotate (codedAs_encode Laws.Encoding.rra rfl) rfl (by decide) fun _ => rfl,
    rotRow_rlc.shiftForms computesShift_rlc8, rotRow_rrc.shiftForms computesShift_rrc8,
    rotRow_rl.shiftForms computesShift_rl8, rotRow_rr.shiftForms computesShift_rr8,
    rotRow_sla.shiftForms computesShift_sla8, rotRow_sra.shiftForms computesShift_sra8,
    rotRow_swap.shiftForms computesShift_swap8, rotRow_srl.shiftForms computesShift_srl8⟩

/-- Settles O24: `BIT` changes flags only; `RES` and `SET` write the byte of `clearBit` and `setBit`, which differs in
one bit at most. -/
theorem bitInstructionsTouchOneBit : Obligations.BitInstructionsTouchOneBit := by
  refine fun s b => ⟨fun r hr => ⟨?_, ?_, ?_, ?_, ?_, ?_⟩, ?_, ?_, ?_, ?_, fun v hv => ⟨⟨_, bitCleared_clearBit v b, ?_⟩,
    ⟨_, bitAdded_setBit v b, ?_⟩⟩, fun hv => ⟨?_, ?_⟩⟩
  · exact codedAs_encode (Laws.Encoding.bitBR b r) hr
  · exact codedAs_encode (Laws.Encoding.resBR b r) hr
  · exact codedAs_encode (Laws.Encoding.setBR b r) hr
  · exact exec_next_of_done_escaped (i := .bitBR b r) rfl rfl rfl
  · exact takes_reg8_escaped rfl rfl hr (bitCleared_clearBit _ b)
  · exact takes_reg8_escaped rfl rfl hr (bitAdded_setBit _ b)
  · exact codedAs_encode (Laws.Encoding.bitBHl b) rfl
  · exact codedAs_encode (Laws.Encoding.resBHl b) rfl
  · exact codedAs_encode (Laws.Encoding.setBHl b) rfl
  · refine readsByte_of_withRead rfl fun v => ?_
    rw [done, costOf_escape (op2 := packXyz 1 b 6) rfl]
    rfl
  · exact storesByte_escaped (after := id) (withRead_some hv _) (fun _ => rfl) rfl
  · exact storesByte_escaped (after := id) (withRead_some hv _) (fun _ => rfl) rfl
  · exact withRead_none hv _
  · exact withRead_none hv _

end Sys2Proof.Claims
end

section
/-! PROOFS. The escape (46_system.md): each byte behind it selects one row of the secondary table, by the decoder and by
the executor alike, and every row completes on registers and plain storage. -/

namespace Sys2Proof.Machine

/-! ### The fields of an opcode -/

/-- An opcode is packed from its fields (R142). -/
theorem packXyz_fields (op : Byte) : packXyz (fieldX op) (fieldY op) (fieldZ op) = op := by
  rw [packXyz, fieldX, fieldY, fieldZ, BitVec.extractLsb'_append_extractLsb'_eq_extractLsb' (by rfl),
    BitVec.extractLsb'_append_extractLsb'_eq_extractLsb' (by rfl)]
  exact BitVec.extractLsb'_eq_self

/-- The operand table `r` is that of the indices (R143). -/
theorem index_of_regOfIndex {z : BitVec 3} {r : Reg8} (h : regOfIndex z = some r) : r.index = z := by
  unfold regOfIndex at h
  split at h <;> cases h <;> rfl

/-- Only index 6 names no register (R143). -/
theorem regOfIndex_eq_none {z : BitVec 3} (h : regOfIndex z = none) : z = 6 := by
  revert z
  decide

theorem fieldZ_toNat (op : Byte) : (fieldZ op).toNat = op.toNat % 8 :=
  BitVec.extractLsb'_toNat 0 3 op

/-- The rows of the `rot` table (R143). -/
theorem rotIndex_cases (y : BitVec 3) : y = 0 ∨ y = 1 ∨ y = 2 ∨ y = 3 ∨ y = 4 ∨ y = 5 ∨ y = 6 ∨ y = 7 := by
  revert y
  decide

/-- The quarters of a table (R147, R151). -/
theorem quarter_cases (x : BitVec 2) : x = 0 ∨ x = 1 ∨ x = 2 ∨ x = 3 := by
  revert x
  decide

/-! ### The escape (R335) -/

theorem execRotRow_eq_exec (y z : BitVec 3) (s : State) :
    execRotRow y (regOfIndex z) s = exec (decodeRot y z) s := by
  unfold decodeRot withReg
  rcases rotIndex_cases y with rfl | rfl | rfl | rfl | rfl | rfl | rfl | rfl <;> cases regOfIndex z <;> rfl

/-- The executor runs the row that the decoder gives for the second byte (R151, R335). -/
theorem execSecondary_eq_exec (op2 : Byte) (s : State) : execSecondary op2 s = exec (decodeSecondary op2) s := by
  unfold execSecondary decodeSecondary withReg
  dsimp only
  rcases quarter_cases (fieldX op2) with hx | hx | hx | hx <;> rw [hx]
  · exact execRotRow_eq_exec _ _ s
  all_goals cases regOfIndex (fieldZ op2) <;> rfl

theorem exec_prefixCb_some {s : State} {op2 : Byte} (h : readByte s s.cpu.pc = some op2) :
    exec .prefixCb s = exec (decodeSecondary op2) (setPc (s.cpu.pc + 1) s) := by
  change execPrefixCb s = _
  simp only [execPrefixCb, fetch8, h, afterBus]
  exact execSecondary_eq_exec op2 _

theorem exec_prefixCb_none {s : State} (h : readByte s s.cpu.pc = none) : exec .prefixCb s = busFault s.cpu.pc s := by
  change execPrefixCb s = _
  simp only [execPrefixCb, fetch8, h, afterBus]
  rfl

/-! ### Plain storage -/

/-- From plain storage a byte reads (R81). -/
theorem readByte_plain {s : State} {addr : Word} (hp : plainAt s addr = true) : ∃ v, readByte s addr = some v := by
  unfold plainAt at hp
  unfold readByte
  split at hp <;> simp_all [readLoc]

end Sys2Proof.Machine

namespace Sys2Proof.Claims

open Sys2Proof.Machine

/-! ### Completing -/

/-- The instruction completes in the state, at its cost and without moving `pc`. -/
def Completes (i : Instr) (s : State) : Prop :=
  ∃ t, exec i s = .next t ∧ t.cpu.pc = s.cpu.pc ∧ t.cpu.cycI = costOf s.setup.costs i

/-- An instruction completes that ends in a state with the same setup and `pc`. -/
theorem completes_of_done {i : Instr} {s u : State} (hexec : exec i s = done i u) (hsetup : u.setup = s.setup)
    (hpc : u.cpu.pc = s.cpu.pc) : Completes i s :=
  ⟨_, hexec, hpc, congrArg (fun su : Setup => costOf su.costs i) hsetup⟩

/-- An instruction completes that reads plain storage and ends. -/
theorem completes_of_withRead {i : Instr} {s : State} {addr : Word} {k : Byte → Out}
    (hexec : exec i s = withRead addr s k) (hp : plainAt s addr = true)
    (hk : ∀ v, exec i s = k v → Completes i s) : Completes i s := by
  obtain ⟨v, hv⟩ := readByte_plain hp
  exact hk v (hexec.trans (withRead_some hv k))

/-- An instruction completes that stores to plain storage and changes no `pc`. -/
theorem completes_of_withWrite {i : Instr} {s : State} {addr : Word} {v : Byte} {after : State → State}
    (hexec : exec i s = withWrite addr v s fun u => done i (after u)) (hp : plainAt s addr = true)
    (hsetup : ∀ u, (after u).setup = u.setup) (hpc : ∀ u, (after u).cpu.pc = u.cpu.pc) : Completes i s := by
  obtain ⟨u, hu⟩ := writeByte_plain hp v
  obtain ⟨hs, hc, -⟩ := writeByte_frame hu
  exact completes_of_done (hexec.trans (withWrite_ok hu _)) ((hsetup u).trans hs)
    ((hpc u).trans (congrArg Cpu.pc hc))

/-! ### The rows of the secondary table -/

/-- The two instructions are the forms of row `x`, `y` of the secondary table (R151): the encodings of both, and that
both complete, the one on `(HL)` where that names plain storage. -/
structure SecondaryRow (x : BitVec 2) (y : BitVec 3) (onReg : Reg8 → Instr) (onHl : Instr) : Prop where
  encode_reg : ∀ r, encode (onReg r) = escaped (packXyz x y r.index) := by intros; rfl
  encode_hl : encode onHl = escaped (packXyz x y 6) := by rfl
  completes_reg : ∀ r s, Completes (onReg r) s
  completes_hl : ∀ s, plainAt s (reg16 s .hl) = true → Completes onHl s

theorem RotRow.secondaryRow {y : BitVec 3} {onReg : Reg8 → Instr} {onHl : Instr} {f : Byte → Bool → Byte × Bool}
    (h : RotRow y onReg onHl f) : SecondaryRow 0 y onReg onHl where
  encode_reg := h.encode_reg
  encode_hl := h.encode_hl
  completes_reg r s := completes_of_done (h.exec_reg r s) (setReg8_setup s r _) (setReg8_cpu_pc s r _)
  completes_hl s hp := completes_of_withRead (h.exec_hl s) hp fun _ hv =>
    completes_of_withWrite hv hp (fun _ => rfl) fun _ => rfl

theorem secondaryRow_bit (y : BitVec 3) : SecondaryRow 1 y (.bitBR y) (.bitBHl y) where
  completes_reg _ _ := completes_of_done rfl rfl rfl
  completes_hl _ hp := completes_of_withRead rfl hp fun _ hv => completes_of_done hv rfl rfl

/-- A row completes whose form on a register writes that register and whose form on `(HL)` replaces the byte. -/
theorem secondaryRow_of_modify {x : BitVec 2} {y : BitVec 3} {onReg : Reg8 → Instr} {onHl : Instr} {f : Byte → Byte}
    (hencode : ∀ r, encode (onReg r) = escaped (packXyz x y r.index))
    (hencodeHl : encode onHl = escaped (packXyz x y 6))
    (hreg : ∀ r s, exec (onReg r) s = done (onReg r) (setReg8 r (f (reg8 s r)) s))
    (hhl : ∀ s, exec onHl s = modifyHl onHl f s) : SecondaryRow x y onReg onHl where
  encode_reg := hencode
  encode_hl := hencodeHl
  completes_reg r s := completes_of_done (hreg r s) (setReg8_setup s r _) (setReg8_cpu_pc s r _)
  completes_hl s hp := completes_of_withRead (hhl s) hp fun _ hv =>
    completes_of_withWrite (after := id) hv hp (fun _ => rfl) fun _ => rfl

theorem secondaryRow_res (y : BitVec 3) : SecondaryRow 2 y (.resBR y) (.resBHl y) :=
  secondaryRow_of_modify (f := (clearBit · y)) (fun _ => rfl) rfl (fun _ _ => rfl) fun _ => rfl

theorem secondaryRow_set (y : BitVec 3) : SecondaryRow 3 y (.setBR y) (.setBHl y) :=
  secondaryRow_of_modify (f := (setBit · y)) (fun _ => rfl) rfl (fun _ _ => rfl) fun _ => rfl

/-- Every row of the `rot` table (R143). -/
theorem exists_rotRow (y : BitVec 3) :
    ∃ onReg onHl, SecondaryRow 0 y onReg onHl ∧ ∀ z, decodeRot y z = withReg z onReg onHl := by
  rcases rotIndex_cases y with rfl | rfl | rfl | rfl | rfl | rfl | rfl | rfl
  · exact ⟨_, _, rotRow_rlc.secondaryRow, fun _ => rfl⟩
  · exact ⟨_, _, rotRow_rrc.secondaryRow, fun _ => rfl⟩
  · exact ⟨_, _, rotRow_rl.secondaryRow, fun _ => rfl⟩
  · exact ⟨_, _, rotRow_rr.secondaryRow, fun _ => rfl⟩
  · exact ⟨_, _, rotRow_sla.secondaryRow, fun _ => rfl⟩
  · exact ⟨_, _, rotRow_sra.secondaryRow, fun _ => rfl⟩
  · exact ⟨_, _, rotRow_swap.secondaryRow, fun _ => rfl⟩
  · exact ⟨_, _, rotRow_srl.secondaryRow, fun _ => rfl⟩

/-- Every second byte selects a row and, by `z`, one of its forms (R151). -/
theorem exists_secondaryRow (op2 : Byte) :
    ∃ onReg onHl, SecondaryRow (fieldX op2) (fieldY op2) onReg onHl ∧
      decodeSecondary op2 = withReg (fieldZ op2) onReg onHl := by
  unfold decodeSecondary
  generalize fieldY op2 = y
  rcases quarter_cases (fieldX op2) with hx | hx | hx | hx <;> rw [hx]
  · obtain ⟨onReg, onHl, hrow, hdecode⟩ := exists_rotRow y
    exact ⟨onReg, onHl, hrow, hdecode _⟩
  · exact ⟨_, _, secondaryRow_bit y, rfl⟩
  · exact ⟨_, _, secondaryRow_res y, rfl⟩
  · exact ⟨_, _, secondaryRow_set y, rfl⟩

/-- The form of the row that index `z` selects is encoded with it in bits 2 to 0 (R142, R143). -/
theorem SecondaryRow.encode_withReg {x : BitVec 2} {y : BitVec 3} {onReg : Reg8 → Instr} {onHl : Instr}
    (h : SecondaryRow x y onReg onHl) (z : BitVec 3) : encode (withReg z onReg onHl) = escaped (packXyz x y z) := by
  unfold withReg
  split
  · next r hr => rw [h.encode_reg, index_of_regOfIndex hr]
  · next hz => rw [h.encode_hl, regOfIndex_eq_none hz]

/-- The form of the row that index `z` selects completes, unless it is the one on `(HL)` and that is no plain
storage. -/
theorem SecondaryRow.completes_withReg {x : BitVec 2} {y z : BitVec 3} {onReg : Reg8 → Instr} {onHl : Instr}
    {s : State} (h : SecondaryRow x y onReg onHl) (hz : z ≠ 6 ∨ plainAt s (reg16 s .hl) = true) :
    Completes (withReg z onReg onHl) s := by
  unfold withReg
  split
  · next r _ => exact h.completes_reg r s
  · next hnone => exact h.completes_hl s (hz.resolve_left (absurd (regOfIndex_eq_none hnone)))

/-! ### The second byte -/

theorem encode_decodeSecondary (op2 : Byte) : encode (decodeSecondary op2) = escaped op2 := by
  obtain ⟨_, _, hrow, hdecode⟩ := exists_secondaryRow op2
  rw [hdecode, hrow.encode_withReg, packXyz_fields]

theorem completes_decodeSecondary {op2 : Byte} {s : State}
    (h : op2.toNat % 8 ≠ 6 ∨ plainAt s (reg16 s .hl) = true) : Completes (decodeSecondary op2) s := by
  obtain ⟨_, _, hrow, hdecode⟩ := exists_secondaryRow op2
  rw [hdecode]
  refine hrow.completes_withReg (h.imp_left fun hne hz => hne ?_)
  rw [← fieldZ_toNat, hz]
  rfl

/-! ### The statement -/

/-- Settles O6: the escape fetches the second byte and runs the row of the secondary table that the decoder gives
for it; that row completes on a register or plain storage, at the cost of its encoding. -/
theorem escapeRunsTheSelectedRow : Obligations.EscapeRunsTheSelectedRow := by
  refine ⟨codedAs_encode Laws.Encoding.prefixCb rfl, fun s => ⟨fun op2 hop2 => ⟨rfl, exec_prefixCb_some hop2⟩,
    exec_prefixCb_none, fun op2 hop2 hplain => ?_⟩⟩
  obtain ⟨t, hexec, hpc, hcost⟩ :=
    completes_decodeSecondary (s := setPc (s.cpu.pc + 1) s) (hplain.imp_right And.right)
  exact ⟨t, (exec_prefixCb_some hop2).trans hexec, hpc, hcost.trans (costOf_escape (encode_decodeSecondary op2))⟩

end Sys2Proof.Claims
end

section
/-! PROOFS. The encoding (30_encoding.md): every instruction decodes from its encoding, the decoder's tables give
well-formed instructions whose encodings are the bytes read, and the five statements about bytes. -/

namespace Sys2Proof.Laws.Encoding

/-- A well-formed instruction is what its encoding decodes to: one lemma per constructor, gathered. -/
theorem statement : ∀ i : Instr, Statement i
  | .nop => nop
  | .ldA16Sp a16 => ldA16Sp a16
  | .stop padding => stop padding
  | .jrE8 e8 => jrE8 e8
  | .jrCcE8 cc e8 => jrCcE8 cc e8
  | .ldRrD16 rr d16 => ldRrD16 rr d16
  | .addHlRr rr => addHlRr rr
  | .ldBcA => ldBcA
  | .ldDeA => ldDeA
  | .ldHliA => ldHliA
  | .ldHldA => ldHldA
  | .ldABc => ldABc
  | .ldADe => ldADe
  | .ldAHli => ldAHli
  | .ldAHld => ldAHld
  | .incRr rr => incRr rr
  | .decRr rr => decRr rr
  | .incR r => incR r
  | .incHl => incHl
  | .decR r => decR r
  | .decHl => decHl
  | .ldRD8 r d8 => ldRD8 r d8
  | .ldHlD8 d8 => ldHlD8 d8
  | .rlca => rlca
  | .rrca => rrca
  | .rla => rla
  | .rra => rra
  | .daa => daa
  | .cpl => cpl
  | .scf => scf
  | .ccf => ccf
  | .ldRR dst src => ldRR dst src
  | .ldRHl r => ldRHl r
  | .ldHlR r => ldHlR r
  | .halt => halt
  | .addR r => addR r
  | .addHl => addHl
  | .addD8 d8 => addD8 d8
  | .adcR r => adcR r
  | .adcHl => adcHl
  | .adcD8 d8 => adcD8 d8
  | .subR r => subR r
  | .subHl => subHl
  | .subD8 d8 => subD8 d8
  | .sbcR r => sbcR r
  | .sbcHl => sbcHl
  | .sbcD8 d8 => sbcD8 d8
  | .andR r => andR r
  | .andHl => andHl
  | .andD8 d8 => andD8 d8
  | .xorR r => xorR r
  | .xorHl => xorHl
  | .xorD8 d8 => xorD8 d8
  | .orR r => orR r
  | .orHl => orHl
  | .orD8 d8 => orD8 d8
  | .cpR r => cpR r
  | .cpHl => cpHl
  | .cpD8 d8 => cpD8 d8
  | .retCc cc => retCc cc
  | .ldhA8A a8 => ldhA8A a8
  | .addSpE8 e8 => addSpE8 e8
  | .ldhAA8 a8 => ldhAA8 a8
  | .ldHlSpE8 e8 => ldHlSpE8 e8
  | .popRr rr => popRr rr
  | .popAf => popAf
  | .ret => ret
  | .reti => reti
  | .jpHl => jpHl
  | .ldSpHl => ldSpHl
  | .jpCcA16 cc a16 => jpCcA16 cc a16
  | .ldhCA => ldhCA
  | .ldA16A a16 => ldA16A a16
  | .ldhAC => ldhAC
  | .ldAA16 a16 => ldAA16 a16
  | .jpA16 a16 => jpA16 a16
  | .prefixCb => prefixCb
  | .di => di
  | .ei => ei
  | .callCcA16 cc a16 => callCcA16 cc a16
  | .pushRr rr => pushRr rr
  | .callA16 a16 => callA16 a16
  | .rstN t => rstN t
  | .undefinedD3 => undefinedD3
  | .undefinedDB => undefinedDB
  | .undefinedDD => undefinedDD
  | .undefinedE3 => undefinedE3
  | .undefinedE4 => undefinedE4
  | .undefinedEB => undefinedEB
  | .undefinedEC => undefinedEC
  | .undefinedED => undefinedED
  | .undefinedF4 => undefinedF4
  | .undefinedFC => undefinedFC
  | .undefinedFD => undefinedFD
  | .rlcR r => rlcR r
  | .rlcHl => rlcHl
  | .rrcR r => rrcR r
  | .rrcHl => rrcHl
  | .rlR r => rlR r
  | .rlHl => rlHl
  | .rrR r => rrR r
  | .rrHl => rrHl
  | .slaR r => slaR r
  | .slaHl => slaHl
  | .sraR r => sraR r
  | .sraHl => sraHl
  | .swapR r => swapR r
  | .swapHl => swapHl
  | .srlR r => srlR r
  | .srlHl => srlHl
  | .bitBR b r => bitBR b r
  | .bitBHl b => bitBHl b
  | .resBR b r => resBR b r
  | .resBHl b => resBHl b
  | .setBR b r => setBR b r
  | .setBHl b => setBHl b

end Sys2Proof.Laws.Encoding

namespace Sys2Proof

/-! ### The tables of the decoder -/

/-- The word of two operand bytes is encoded as those bytes, low byte first (R144). -/
theorem withWord_append (op lo hi : Byte) : withWord op (hi ++ lo) = [op, lo, hi] := by
  change [op, Machine.loByte (hi ++ lo), Machine.hiByte (hi ++ lo)] = _
  rw [Machine.loByte_append, Machine.hiByte_append]

/-- The instruction is well formed and its encoding is the bytes of an instruction with these first three bytes. -/
def ReadFrom (op lo hi : Byte) (i : Instr) : Prop :=
  i.wf = true ∧ encode i = [op, lo, hi].take (lengthOf op)

theorem readFrom_decodeX0 (y z : BitVec 3) (lo hi : Byte) :
    ReadFrom (packXyz 0 y z) lo hi (decodeX0 (packXyz 0 y z) lo hi) := by
  rcases Machine.rotIndex_cases z with rfl | rfl | rfl | rfl | rfl | rfl | rfl | rfl <;>
    rcases Machine.rotIndex_cases y with rfl | rfl | rfl | rfl | rfl | rfl | rfl | rfl <;>
    first
    | exact ⟨rfl, rfl⟩
    | exact ⟨rfl, withWord_append _ lo hi⟩

theorem readFrom_decodeX1 (y z : BitVec 3) (lo hi : Byte) :
    ReadFrom (packXyz 1 y z) lo hi (decodeX1 (packXyz 1 y z)) := by
  rcases Machine.rotIndex_cases z with rfl | rfl | rfl | rfl | rfl | rfl | rfl | rfl <;>
    rcases Machine.rotIndex_cases y with rfl | rfl | rfl | rfl | rfl | rfl | rfl | rfl <;>
    exact ⟨rfl, rfl⟩

theorem readFrom_decodeAluR (y z : BitVec 3) (lo hi : Byte) :
    ReadFrom (packXyz 2 y z) lo hi (decodeAluR y z) := by
  rcases Machine.rotIndex_cases z with rfl | rfl | rfl | rfl | rfl | rfl | rfl | rfl <;>
    rcases Machine.rotIndex_cases y with rfl | rfl | rfl | rfl | rfl | rfl | rfl | rfl <;>
    exact ⟨rfl, rfl⟩

theorem decodeSecondary_wf (op2 : Byte) : (decodeSecondary op2).wf = true := by
  revert op2
  decide

theorem readFrom_decodeX3 (y z : BitVec 3) (lo hi : Byte) :
    ReadFrom (packXyz 3 y z) lo hi (decodeX3 (packXyz 3 y z) lo hi) := by
  rcases Machine.rotIndex_cases z with rfl | rfl | rfl | rfl | rfl | rfl | rfl | rfl <;>
    rcases Machine.rotIndex_cases y with rfl | rfl | rfl | rfl | rfl | rfl | rfl | rfl <;>
    first
    | exact ⟨rfl, rfl⟩
    | exact ⟨rfl, withWord_append _ lo hi⟩
    | exact ⟨decodeSecondary_wf lo, Claims.encode_decodeSecondary lo⟩

theorem readFrom_decodeOp (op lo hi : Byte) : ReadFrom op lo hi (decodeOp op lo hi) := by
  have hop := Machine.packXyz_fields op
  unfold decodeOp
  rcases Machine.quarter_cases (fieldX op) with hx | hx | hx | hx <;> rw [hx] at hop ⊢
  · exact hop ▸ readFrom_decodeX0 (fieldY op) (fieldZ op) lo hi
  · exact hop ▸ readFrom_decodeX1 (fieldY op) (fieldZ op) lo hi
  · exact (congrArg (ReadFrom · lo hi (decodeAluR (fieldY op) (fieldZ op))) hop).mp
      (readFrom_decodeAluR (fieldY op) (fieldZ op) lo hi)
  · exact hop ▸ readFrom_decodeX3 (fieldY op) (fieldZ op) lo hi

/-- An instruction has one to three bytes (R140). -/
theorem lengthOf_bounds (op : Byte) : 1 ≤ lengthOf op ∧ lengthOf op ≤ 3 := by
  revert op
  decide

/-! ### The decoder on a list of bytes -/

/-- What the decoder reads is the lone escape, or as many bytes as the first one says, by the decoder's tables. -/
theorem decode_cases {bytes : List Byte} {i : Instr} {n : Nat} (h : decode bytes = .instr i n) :
    (bytes = [0xCB] ∧ i = .prefixCb ∧ n = 1) ∨
      ∃ op more lo hi, bytes = op :: more ∧ n = lengthOf op ∧ bytes.take n = [op, lo, hi].take n ∧
        i = decodeOp op lo hi := by
  unfold decode at h
  split at h
  · cases h
  · next op =>
    split at h
    · next hop =>
      cases h
      exact .inl ⟨by rw [hop]; rfl, rfl, rfl⟩
    · split at h
      · next hl =>
        cases h
        exact .inr ⟨op, [], 0, 0, rfl, hl.symm, rfl, rfl⟩
      · cases h
  · next op lo =>
    split at h
    · next hl =>
      cases h
      exact .inr ⟨op, [lo], lo, 0, rfl, rfl, (List.take_append_of_le_length (l₁ := [op, lo]) hl).symm, rfl⟩
    · cases h
  · next op lo hi rest =>
    cases h
    refine .inr ⟨op, lo :: hi :: rest, lo, hi, rfl, rfl, ?_, rfl⟩
    exact List.take_append_of_le_length (l₁ := [op, lo, hi]) (lengthOf_bounds op).2

/-- With as many bytes at hand as the first one says the decoder reads that many, but for the lone escape. -/
theorem decode_of_enough {op : Byte} {more : List Byte} (hlen : lengthOf op ≤ more.length + 1)
    (hne : op :: more ≠ [0xCB]) : ∃ i, decode (op :: more) = .instr i (lengthOf op) := by
  match more with
  | [] =>
    have hop : op ≠ 0xCB#8 := fun h => hne (by rw [h]; rfl)
    have hl : lengthOf op = 1 := Nat.le_antisymm hlen (lengthOf_bounds op).1
    exact ⟨decodeOp op 0 0, by rw [decode, if_neg hop, if_pos hl, hl]⟩
  | [lo] => exact ⟨decodeOp op lo 0, if_pos hlen⟩
  | lo :: hi :: rest => exact ⟨decodeOp op lo hi, rfl⟩

/-- Well-formed instructions with the same encoding are the same. -/
theorem encode_injective {i j : Instr} (hi : i.wf = true) (hj : j.wf = true) (h : encode i = encode j) : i = j := by
  have hdecode := (Laws.Encoding.statement i hi).1
  rw [h, (Laws.Encoding.statement j hj).1] at hdecode
  injection hdecode with hij
  exact hij.symm

end Sys2Proof

namespace Sys2Proof.Claims

open Sys2Proof.Machine

/-- A well-formed instruction is coded as its encoding (R140, R146). -/
theorem codedAs_of_wf {i : Instr} (hwf : i.wf = true) : codedAs (encode i) i :=
  codedAs_encode (Laws.Encoding.statement i) hwf

/-! ### The statements -/

/-- Settles O2: the decoder's tables give well-formed instructions that are encoded as the bytes read. -/
theorem encodingADecodingGivesTheBytes : Obligations.EncodingADecodingGivesTheBytes := by
  intro bytes i n h
  rcases decode_cases h with ⟨rfl, rfl, rfl⟩ | ⟨op, more, lo, hi, -, rfl, htake, rfl⟩
  · exact ⟨rfl, rfl, rfl⟩
  · obtain ⟨hwf, hencode⟩ := readFrom_decodeOp op lo hi
    refine ⟨hwf, hencode.trans htake.symm, ?_⟩
    rw [hencode, List.length_take_of_le (lengthOf_bounds op).2]

/-- Settles O1: what follows an encoding does not change how many bytes are read, and by O2 not the instruction. -/
theorem decodingAnEncodingGivesTheInstruction : Obligations.DecodingAnEncodingGivesTheInstruction := by
  intro i hwf
  have hcoded : decode (encode i) = .instr i (encode i).length := codedAs_of_wf hwf
  refine ⟨hcoded, fun hne rest => ?_⟩
  rcases decode_cases hcoded with ⟨-, hi, -⟩ | ⟨op, more, -, -, hbytes, hlen, -, -⟩
  · exact absurd hi hne
  have hmore : lengthOf op = more.length + 1 := by rw [← hlen, hbytes, List.length_cons]
  have hescape : op :: (more ++ rest) ≠ [0xCB] := by
    intro h
    obtain ⟨rfl, hnil⟩ := List.cons.inj h
    rw [(List.append_eq_nil_iff.mp hnil).1] at hmore
    cases hmore
  obtain ⟨j, hj⟩ := decode_of_enough (op := op) (more := more ++ rest) (by simp; omega) hescape
  rw [← List.cons_append, ← hbytes, ← hlen] at hj
  obtain ⟨hjwf, hjencode, -⟩ := encodingADecodingGivesTheBytes _ _ _ hj
  rw [List.take_left] at hjencode
  rw [hj, encode_injective hjwf hwf hjencode]

/-- Settles O3: the length is a function of the first byte, which every reading takes. -/
theorem firstByteDecidesTheLength : Obligations.FirstByteDecidesTheLength := by
  refine fun b lo hi rest => ⟨(lengthOf_bounds b).1, (lengthOf_bounds b).2, ⟨_, rfl⟩, fun more i n h hne => ?_⟩
  rcases decode_cases h with ⟨-, hi, -⟩ | ⟨op, _, _, _, hbytes, hn, -, -⟩
  · exact absurd hi hne
  · rw [hn, (List.cons.inj hbytes).1]

/-- Settles O4: the decoder runs on each of the words. -/
theorem tableWordsDecodeToTheirRows : Obligations.TableWordsDecodeToTheirRows := by
  unfold Obligations.TableWordsDecodeToTheirRows
  decide

/-- Each undefined row is its one byte, and ends in the fatal condition (R336). -/
theorem undefinedRows_encode : ∀ row ∈ undefinedRows, row.2.wf = true ∧ encode row.2 = [row.1] := by
  decide

theorem undefinedRows_exec : ∀ row ∈ undefinedRows, ∀ s, exec row.2 s = undefinedOpcode row.1 s := by
  simp only [undefinedRows, List.forall_mem_cons]
  exact ⟨fun _ => rfl, fun _ => rfl, fun _ => rfl, fun _ => rfl, fun _ => rfl, fun _ => rfl, fun _ => rfl, fun _ => rfl,
    fun _ => rfl, fun _ => rfl, fun _ => rfl, fun _ h => absurd h List.not_mem_nil⟩

/-- Settles O8: each of the eleven rows is one byte and ends in the fatal condition; a decoding to one of them is
encoded as the byte read. -/
theorem undefinedOpcodeEndsTheRun : Obligations.UndefinedOpcodeEndsTheRun := by
  refine ⟨fun row hrow => ⟨?_, undefinedRows_exec row hrow⟩, fun b rest n row hrow h => ?_, fun s hs => if_pos hs⟩
  · obtain ⟨hwf, hencode⟩ := undefinedRows_encode row hrow
    exact hencode ▸ codedAs_of_wf hwf
  · obtain ⟨-, htake, hlen⟩ := encodingADecodingGivesTheBytes _ _ _ h
    rw [(undefinedRows_encode row hrow).2] at htake hlen
    subst hlen
    exact (List.cons.inj htake).1.symm

end Sys2Proof.Claims
end

section
/-! PROOFS. The stack and control transfer (41_load16.md, 45_control.md, 46_system.md): what a store to plain storage
leaves at every other place, when a push or a pop completes and where it ends the run, and the statements about the
stack, jumps, calls, returns and the system instructions. -/

namespace Sys2Proof.Machine

theorem OnlyCpu.mem {s t : State} (h : OnlyCpu s t) : t.mem = s.mem := by rw [h]

theorem OnlyCpu.setup {s t : State} (h : OnlyCpu s t) : t.setup = s.setup := by rw [h]

/-! ### Stores to plain storage -/

/-- A store to plain storage leaves every other place alone (R82). -/
theorem readLoc_writeByte_plain_other {s t : State} {addr : Word} {v : Byte} (hc : s.mem.canonical = true)
    (hp : plainAt s addr = true) (h : writeByte s addr v = .ok () t) {loc : Loc} (hne : loc ≠ locate s addr) :
    readLoc t loc = readLoc s loc := by
  obtain ⟨hvram, heram, hwram, hoam, -, hhram, -, -⟩ := (Mems.canonical_iff s.mem).mp hc
  rcases writeByte_cases h with ⟨⟨_, hl⟩ | ⟨_, hl⟩, -⟩ | ⟨_, hl, rfl⟩ | ⟨_, hl, rfl⟩ | ⟨_, hl, rfl⟩ | ⟨_, hl, rfl⟩ |
    ⟨_, hl, -⟩ | ⟨_, hl, rfl⟩ | ⟨hl, rfl⟩
  case inl.inl | inl.inr | inr.inr.inr.inr.inr.inl => simp [plainAt, hl] at hp
  all_goals
    rw [hl] at hne
    cases loc <;> try rfl
  case inr.inl => exact congrArg some (Memory.get_put_other hvram (fun e => hne (congrArg Loc.vram e)) v)
  case inr.inr.inl => exact congrArg some (Memory.get_put_other heram (fun e => hne (congrArg Loc.eram e)) v)
  case inr.inr.inr.inl => exact congrArg some (Memory.get_put_other hwram (fun e => hne (congrArg Loc.wram e)) v)
  case inr.inr.inr.inr.inl => exact congrArg some (Memory.get_put_other hoam (fun e => hne (congrArg Loc.oam e)) v)
  case inr.inr.inr.inr.inr.inr.inl =>
    exact congrArg some (Memory.get_put_other hhram (fun e => hne (congrArg Loc.hram e)) v)
  case inr.inr.inr.inr.inr.inr.inr => exact absurd rfl hne

/-- Every address that names another place reads as before. -/
theorem readByte_writeByte_plain_other {s t : State} {addr a : Word} {v : Byte} (hc : s.mem.canonical = true)
    (hp : plainAt s addr = true) (h : writeByte s addr v = .ok () t) (hne : locate s a ≠ locate s addr) :
    readByte t a = readByte s a := by
  rw [readByte, locate_writeByte_plain hp h]
  exact readLoc_writeByte_plain_other hc hp h hne

/-- What an address names does not depend on the Processor, so neither does being plain storage (R81). -/
theorem plainAt_onlyCpu {s t : State} (h : OnlyCpu s t) (addr : Word) : plainAt t addr = plainAt s addr := by
  rw [h]
  rfl

/-- Two stores to different plain places both complete, and both bytes read back. -/
theorem two_stores_plain {s : State} {a b : Word} (hc : s.mem.canonical = true) (ha : plainAt s a = true)
    (hb : plainAt s b = true) (hab : locate s a ≠ locate s b) (v w : Byte) {move : State → State}
    (hmove : ∀ u, OnlyCpu u (move u)) :
    ∃ u t, writeByte s a v = .ok () u ∧ writeByte (move u) b w = .ok () t ∧ readByte t a = some v ∧
      readByte t b = some w := by
  obtain ⟨u, hu⟩ := writeByte_plain ha v
  have hcu : (move u).mem.canonical = true := by
    rw [(hmove u).mem]
    exact writeByte_canonical hu hc
  have hlocate : ∀ x, locate (move u) x = locate s x := by
    intro x
    rw [hmove u]
    exact locate_writeByte_plain ha hu x
  have hbu : plainAt (move u) b = true := by
    rw [plainAt, hlocate]
    exact hb
  obtain ⟨t, ht⟩ := writeByte_plain hbu w
  refine ⟨u, t, hu, ht, ?_, readByte_writeByte_plain hcu hbu ht⟩
  rw [readByte_writeByte_plain_other hcu hbu ht (by rwa [hlocate, hlocate]), readByte_onlyCpu (hmove u)]
  exact readByte_writeByte_plain hc ha hu

end Sys2Proof.Machine

namespace Sys2Proof.Claims

open Sys2Proof.Machine

/-! ### The push (R200) -/

theorem push16_of_stores {v : Word} {s t : State} (h : pushStores v s t) : push16 v s = .ok () t := by
  obtain ⟨u, hu, ht⟩ := h
  have hsp : u.cpu.sp - 1 = s.cpu.sp - 2 := by
    rw [(writeByte_frame hu).2.1]
    bv_omega
  simp only [push16, setReg16, hu, hsp, ht]

theorem push16_fatal_first {v bad : Word} {s u : State}
    (h : writeByte { s with cpu := { s.cpu with sp := s.cpu.sp - 1 } } (s.cpu.sp - 1) (hiByte v) = .fatal bad u) :
    push16 v s = .fatal bad u := by
  simp only [push16, setReg16, h]

theorem push16_fatal_second {v bad : Word} {s u w : State}
    (h : writeByte { s with cpu := { s.cpu with sp := s.cpu.sp - 1 } } (s.cpu.sp - 1) (hiByte v) = .ok () u)
    (h' : writeByte { u with cpu := { u.cpu with sp := s.cpu.sp - 2 } } (s.cpu.sp - 2) (loByte v) = .fatal bad w) :
    push16 v s = .fatal bad w := by
  have hsp : u.cpu.sp - 1 = s.cpu.sp - 2 := by
    rw [(writeByte_frame h).2.1]
    bv_omega
  simp only [push16, setReg16, h, hsp, h']

/-- A push onto two plain places completes, moves `SP` only, and both bytes read back. -/
theorem pushStores_plain (v : Word) {s : State} (hc : s.mem.canonical = true) (h1 : plainAt s (s.cpu.sp - 1) = true)
    (h2 : plainAt s (s.cpu.sp - 2) = true) (hne : locate s (s.cpu.sp - 1) ≠ locate s (s.cpu.sp - 2)) :
    ∃ t, pushStores v s t ∧ readByte t (s.cpu.sp - 1) = some (hiByte v) ∧
      readByte t (s.cpu.sp - 2) = some (loByte v) := by
  obtain ⟨u, t, hu, ht, hhi, hlo⟩ :=
    two_stores_plain (s := { s with cpu := { s.cpu with sp := s.cpu.sp - 1 } }) hc h1 h2 hne (hiByte v) (loByte v)
      (move := fun u => { u with cpu := { u.cpu with sp := s.cpu.sp - 2 } }) fun u => onlyCpu_cpu u _
  exact ⟨t, ⟨u, hu, ht⟩, hhi, hlo⟩

/-- A push keeps the setup. -/
theorem push16_setup {v : Word} {s t : State} (h : push16 v s = .ok () t) : t.setup = s.setup := by
  obtain ⟨u, hu, ht⟩ := push16_ok h
  rw [(writeByte_frame ht).1]
  exact (writeByte_frame hu).1

/-- An instruction that pushes and then changes registers only. -/
theorem pushes_of_push16 {i : Instr} {s : State} {v : Word} {k after : State → State} {cost : Costs → Nat}
    (hexec : exec i s = afterBus (push16 v s) fun _ t => .next (setCost (cost t.setup.costs) (k t)))
    (hk : ∀ t, setCost (cost s.setup.costs) (k t) = after t) : pushes i s v after := by
  have hok : ∀ t, pushStores v s t → exec i s = .next (after t) := by
    intro t ht
    have hpush := push16_of_stores ht
    rw [hexec, hpush, afterBus, push16_setup hpush, hk]
  refine ⟨hok, fun bad u hu => ?_, fun bad u w hu hw => ?_, fun hc h1 h2 hne => ?_⟩
  · rw [hexec, push16_fatal_first hu]
    rfl
  · rw [hexec, push16_fatal_second hu hw]
    rfl
  · obtain ⟨t, ht, hhi, hlo⟩ := pushStores_plain v hc h1 h2 hne
    exact ⟨t, ht, hok t ht, push16_cpu (push16_of_stores ht), hhi, hlo⟩

/-! ### The pop (R201) -/

theorem pop16_of_word {v : Word} {s : State} (h : wordAtSp s v) :
    pop16 s = .ok v { s with cpu := { s.cpu with sp := s.cpu.sp + 2 } } := by
  obtain ⟨hlo, hhi⟩ := h
  have hhi' : readByte (setReg16 .sp (s.cpu.sp + 1) s) (s.cpu.sp + 1) = some (hiByte v) :=
    (readByte_onlyCpu (onlyCpu_setReg16 _ _ _) _).trans hhi
  have hsp : s.cpu.sp + 1 + 1 = s.cpu.sp + 2 := by bv_omega
  simp only [pop16, hlo, setReg16_sp_cpu_sp, hhi', hiByte_append_loByte, hsp]
  rfl

theorem pop16_fatal_first {s : State} (h : readByte s s.cpu.sp = none) : pop16 s = .fatal s.cpu.sp s := by
  simp only [pop16, h]

theorem pop16_fatal_second {s : State} {lo : Byte} (h : readByte s s.cpu.sp = some lo)
    (h' : readByte s (s.cpu.sp + 1) = none) :
    pop16 s = .fatal (s.cpu.sp + 1) { s with cpu := { s.cpu with sp := s.cpu.sp + 1 } } := by
  have hhi : readByte (setReg16 .sp (s.cpu.sp + 1) s) (s.cpu.sp + 1) = none :=
    (readByte_onlyCpu (onlyCpu_setReg16 _ _ _) _).trans h'
  simp only [pop16, h, setReg16_sp_cpu_sp, hhi]
  rfl

/-- An instruction that pops and then changes registers only. -/
theorem pops_of_pop16 {i : Instr} {s : State} {k : Word → State → Out} {after : Word → State}
    (hexec : exec i s = afterBus (pop16 s) k)
    (hk : ∀ v, k v { s with cpu := { s.cpu with sp := s.cpu.sp + 2 } } = .next (after v)) : pops i s after := by
  refine ⟨fun v hv => ?_, fun h => ?_, fun lo h h' => ?_⟩
  · rw [hexec, pop16_of_word hv]
    exact hk v
  · rw [hexec, pop16_fatal_first h]
    rfl
  · rw [hexec, pop16_fatal_second h h']
    rfl

/-- Moving `SP` and setting the cost first is within every frame that lets `SP` move. -/
theorem registerFrame.of_popped {s t : State} {regs : List Reg8} {sp pc : Bool} {n : Nat}
    (h : registerFrame (popped n s) t regs sp pc) : registerFrame s t regs true pc := by
  obtain ⟨hcpu, hread, hregs, -, hrest⟩ := h
  have h0 : OnlyCpu s (popped n s) := onlyCpu_cpu s _
  refine ⟨h0.trans hcpu, fun addr => (hread addr).trans (readByte_onlyCpu h0 addr), fun r hf hr => ?_,
    fun hsp => (Bool.noConfusion hsp), hrest⟩
  rw [hregs r hf hr]
  cases r <;> rfl

/-- The flags a word written to `AF` gives (R22). -/
theorem flagsOfByte_loByte (v : Word) :
    flagsOfByte (loByte v) = ⟨v.getLsbD 7, v.getLsbD 6, v.getLsbD 5, v.getLsbD 4⟩ := by
  simp [flagsOfByte, loByte]

/-! ### Opcodes and conditions -/

/-- A condition as the model evaluates it and as R310 gives it. -/
theorem condHolds_iff (cc : Cond) (f : Flags) : condHolds cc f = true ↔ condTrue cc f := by
  cases cc <;> simp [condHolds, condTrue]

/-- No opcode with a condition whose low three bits are not `011` is the escape byte (R142). -/
theorem packCc_ne_escape (hi : BitVec 3) (cc : Cond) {z : BitVec 3} (hz : z ≠ 3) : packCc hi cc z ≠ 0xCB := by
  revert hi z
  cases cc <;> decide

theorem encode_pushRr (rr : Reg16) : encode (.pushRr rr) = [0b11#2 ++ rr.index ++ 0b0101#4] := by
  cases rr <;> rfl

theorem encode_popRr (rr : Reg16) : encode (.popRr rr) = [0b11#2 ++ rr.index ++ 0b0001#4] := by
  cases rr <;> rfl

/-- An opcode of `PUSH` or `POP` is not the escape byte: its low four bits are not `1011` (R142). -/
theorem stackOpcode_ne_escape (rr : Reg16) :
    0b11#2 ++ rr.index ++ 0b0101#4 ≠ 0xCB ∧ 0b11#2 ++ rr.index ++ 0b0001#4 ≠ 0xCB := by
  cases rr <;> decide

/-- No opcode of `RST` is the escape byte: its low three bits are `111` (R142, R321). -/
theorem rstOpcode_ne_escape (n : BitVec 3) : packXyz 3 n 7 ≠ 0xCB := by
  revert n
  decide

/-- A word plus a sign-extended byte, over the integers (R203, R314). -/
theorem add_sext16_toNat (w : Word) (e : Byte) : ((w + sext16 e).toNat : Int) = ((w.toNat : Int) + e.toInt) % 65536 := by
  have hsum : w + sext16 e = BitVec.ofInt 16 ((w.toNat : Int) + e.toInt) := by
    rw [show sext16 e = BitVec.ofInt 16 e.toInt from rfl, BitVec.ofInt_add, BitVec.ofInt_natCast, BitVec.ofNat_toNat,
      BitVec.setWidth_eq]
  rw [hsum, BitVec.toNat_ofInt, Int.toNat_of_nonneg (Int.emod_nonneg _ (by decide))]
  rfl

/-! ### The statements -/

/-- The end of an instruction is at the cost of its opcode (R153). -/
theorem done_eq_next {i : Instr} {op : Byte} {rest : List Byte} {s u : State} (hcode : encode i = op :: rest)
    (hop : op ≠ 0xCB) (hsetup : u.setup = s.setup) : done i u = .next (setCost (cyclesOf s op) u) := by
  rw [done, hsetup, costOf_eq_cyclesOf hcode hop]

theorem popAf_pops (s : State) : pops .popAf s fun v => setReg16 .af v (popped (cyclesOf s 0b11110001) s) :=
  pops_of_pop16 rfl fun _ => done_eq_next (i := .popAf) rfl (by decide) rfl

theorem ret_pops (s : State) : pops .ret s fun v => jumped v (cyclesOf s 0b11001001) (popped 0 s) :=
  pops_of_pop16 rfl fun _ => done_eq_next (i := .ret) rfl (by decide) rfl

/-- Settles O12: `PUSH` is a push of the pair and the cost. -/
theorem pushStoresTheHighByteFirst : Obligations.PushStoresTheHighByteFirst := by
  intro s rr hrr
  have hcode := encode_pushRr rr
  refine ⟨hcode ▸ codedAs_of_wf hrr, pushes_of_push16 (k := id) (cost := fun c => costOf c (.pushRr rr)) rfl fun t => ?_⟩
  rw [costOf_eq_cyclesOf hcode (stackOpcode_ne_escape rr).1]
  rfl

/-- Settles O13: `POP` is a pop into the pair; writing `AF` drops the low four bits of `F`. -/
theorem popTakesTheLowByteFirst : Obligations.PopTakesTheLowByteFirst := by
  refine fun s => ⟨fun rr hrp hrp2 => ?_, codedAs_of_wf (i := .popAf) rfl, ?_, ?_⟩
  · have haf := ne_af_of_inRp hrp
    have hcode := encode_popRr rr
    have hcost := costOf_eq_cyclesOf hcode (stackOpcode_ne_escape rr).2 s
    have hpops : pops (.popRr rr) s fun v =>
        setReg16 rr v (popped (cyclesOf s (0b11#2 ++ rr.index ++ 0b0001#4)) s) := by
      refine pops_of_pop16 rfl fun v => ?_
      rw [done, setReg16_setup, hcost]
      cases rr <;> rfl
    refine ⟨hcode ▸ codedAs_of_wf (Bool.and_eq_true_iff.mpr ⟨hrp, hrp2⟩), fun v hv => ⟨_, hpops.1 v hv, ?_, ?_, ?_, ?_,
      (registerFrame_setReg16 rr v _).of_popped⟩, hpops⟩
    · exact reg16_setReg16_self _ rr v haf
    · cases rr with
      | sp => cases hrp2
      | _ => rfl
    · exact setReg16_cpu_flags haf v _
    · rw [setReg16_cpu_cycI]
      rfl
  · intro v hv
    refine ⟨setReg16 .af v (popped (cyclesOf s 0b11110001) s), ?_, rfl, toByte_flagsOfByte _, ?_, rfl, rfl,
      (registerFrame_setReg16 .af v _).of_popped⟩
    · exact (popAf_pops s).1 v hv
    · exact flagsOfByte_loByte v
  · exact popAf_pops s

/-- Settles O14: the first store is the low byte's, the second runs in the state it leaves. -/
theorem stackPointerStoreIsLowByteFirst : Obligations.StackPointerStoreIsLowByteFirst := by
  intro s a16
  have hok : ∀ u t, writeByte s a16 (loByte s.cpu.sp) = .ok () u → writeByte u (a16 + 1) (hiByte s.cpu.sp) = .ok () t →
      exec (.ldA16Sp a16) s = .next (costing (cyclesOf s 0b00001000) t) := by
    intro u t hu ht
    have hsetup : t.setup = s.setup := (writeByte_frame ht).1.trans (writeByte_frame hu).1
    change execLdA16Sp a16 s = _
    simp only [execLdA16Sp, writeWord, hu, ht, afterBus, done, hsetup]
    rw [costOf_eq_cyclesOf (i := .ldA16Sp a16) (op := 0x08) rfl (by decide)]
    rfl
  refine ⟨codedAs_of_wf (i := .ldA16Sp a16) rfl, hok, fun bad u hu => ?_, fun bad u t hu ht => ?_,
    fun hc h1 h2 hne => ?_⟩
  · change execLdA16Sp a16 s = _
    simp only [execLdA16Sp, writeWord, hu, afterBus]
    rfl
  · change execLdA16Sp a16 s = _
    simp only [execLdA16Sp, writeWord, hu, ht, afterBus]
    rfl
  · obtain ⟨u, t, hu, ht, hlo, hhi⟩ := two_stores_plain hc h1 h2 hne _ _ (move := id) fun u => OnlyCpu.refl u
    exact ⟨_, hok u t hu ht, hlo, hhi⟩

/-- Settles O15: both instructions take `addSpOffset`, whose carries are those of the low bytes. -/
theorem stackPointerOffsetCarriesAreUnsigned : Obligations.StackPointerOffsetCarriesAreUnsigned := by
  refine fun s e => ⟨codedAs_of_wf (i := .ldHlSpE8 e) rfl, codedAs_of_wf (i := .addSpE8 e) rfl,
    (addSpOffset s.cpu.sp e).1, (addSpOffset s.cpu.sp e).2, ?_, rfl, rfl, decide_eq_true_iff, decide_eq_true_iff, ?_, ?_⟩
  · exact add_sext16_toNat s.cpu.sp e
  · exact exec_next_of_done (i := .ldHlSpE8 e) rfl rfl rfl (by decide)
  · exact exec_next_of_done (i := .addSpE8 e) rfl rfl rfl (by decide)

/-- Settles O25: each jump sets `pc`, or where its condition is false nothing, and the cost. -/
theorem jumpsSetTheProgramCounter : Obligations.JumpsSetTheProgramCounter := by
  refine fun s => ⟨fun a16 => ⟨codedAs_of_wf (i := .jpA16 a16) rfl, ?_⟩, fun cc a16 => ⟨?_, fun h => ?_, fun h => ?_⟩,
    codedAs_of_wf (i := .jpHl) rfl, ?_, fun e => ⟨s.cpu.pc + sext16 e, add_sext16_toNat s.cpu.pc e,
      codedAs_of_wf (i := .jrE8 e) rfl, ?_, fun cc => ⟨?_, fun h => ?_, fun h => ?_⟩⟩⟩
  · exact exec_next_of_done (i := .jpA16 a16) rfl rfl rfl (by decide)
  · exact codedAs_of_wf (i := .jpCcA16 cc a16) rfl
  · exact if_pos ((condHolds_iff cc _).mpr h)
  · exact exec_next_of_done (i := .jpCcA16 cc a16) (if_neg fun hc => h ((condHolds_iff cc _).mp hc)) rfl rfl
      (packCc_ne_escape _ cc (by decide))
  · exact exec_next_of_done (i := .jpHl) rfl rfl rfl (by decide)
  · exact exec_next_of_done (i := .jrE8 e) rfl rfl rfl (by decide)
  · exact codedAs_of_wf (i := .jrCcE8 cc e) rfl
  · exact if_pos ((condHolds_iff cc _).mpr h)
  · exact exec_next_of_done (i := .jrCcE8 cc e) (if_neg fun hc => h ((condHolds_iff cc _).mp hc)) rfl rfl
      (packCc_ne_escape _ cc (by decide))

/-- A call is a push of `pc`, the jump and the cost (R316). -/
theorem pushes_of_call {i : Instr} {s : State} {target : Word} {fin : State → Out} {cost : Costs → Nat} {n : Nat}
    (hexec : exec i s = callTo target fin s) (hfin : ∀ t, fin t = .next (setCost (cost t.setup.costs) t))
    (hcost : cost s.setup.costs = n) : pushes i s s.cpu.pc (jumped target n) := by
  refine pushes_of_push16 (k := setPc target) (cost := cost) ?_ fun t => ?_
  · simp only [hexec, callTo, hfin, setPc_setup]
  · rw [hcost]
    rfl

/-- Settles O26: the three calls push `pc` and jump; a call not taken only takes its cost. -/
theorem callsPushTheReturnAddress : Obligations.CallsPushTheReturnAddress := by
  refine fun s => ⟨fun a16 => ⟨codedAs_of_wf (i := .callA16 a16) rfl, ?_⟩, fun cc a16 => ⟨?_, fun h => ?_, fun h => ?_⟩,
    fun n => ⟨codedAs_of_wf (i := .rstN n) rfl, ?_⟩⟩
  · exact pushes_of_call (cost := (costOf · (.callA16 a16))) rfl (fun _ => rfl) (costOf_eq_cyclesOf rfl (by decide) s)
  · exact codedAs_of_wf (i := .callCcA16 cc a16) rfl
  · exact pushes_of_call (cost := (takenCostOf · (.callCcA16 cc a16))) (if_pos ((condHolds_iff cc _).mpr h))
      (fun _ => rfl) rfl
  · exact exec_next_of_done (i := .callCcA16 cc a16) (if_neg fun hc => h ((condHolds_iff cc _).mp hc)) rfl rfl
      (packCc_ne_escape _ cc (by decide))
  · rw [Nat.mul_comm]
    exact pushes_of_call (cost := (costOf · (.rstN n))) rfl (fun _ => rfl)
      (costOf_eq_cyclesOf rfl (rstOpcode_ne_escape n) s)

/-- Settles O27: each return is a pop into `pc`; `RETI` also sets both enables. -/
theorem returnsPopTheProgramCounter : Obligations.ReturnsPopTheProgramCounter := by
  refine fun s => ⟨codedAs_of_wf (i := .ret) rfl, ret_pops s, fun cc => ⟨codedAs_of_wf (i := .retCc cc) rfl,
    fun h => ?_, fun h => ?_⟩, codedAs_of_wf (i := .reti) rfl, ?_⟩
  · exact pops_of_pop16 (if_pos ((condHolds_iff cc _).mpr h)) fun v => rfl
  · exact exec_next_of_done (i := .retCc cc) (if_neg fun hc => h ((condHolds_iff cc _).mp hc)) rfl rfl
      (packCc_ne_escape _ cc (by decide))
  · refine pops_of_pop16 (k := fun v t => done .reti (setImePending false (setIme true (setPc v t)))) ?_ fun v => ?_
    · change afterBus (returnFromInterrupt s) _ = _
      unfold returnFromInterrupt
      cases pop16 s <;> rfl
    · exact done_eq_next (i := .reti) rfl (by decide) rfl

/-- Settles O28: the two bytes a call pushes are those the return pops. -/
theorem returnUndoesACall : Obligations.ReturnUndoesACall := by
  intro s a16 hc h1 h2 hne
  obtain ⟨-, -, -, hplain⟩ := (callsPushTheReturnAddress s).1 a16 |>.2
  obtain ⟨t, hpush, hcall, hcpu, hhi, hlo⟩ := hplain hc h1 h2 hne
  refine ⟨_, _, hcall, rfl, (ret_pops (jumped a16 (cyclesOf s 0b11001101) t)).1 s.cpu.pc ?_, ?_⟩
  · have hsp : s.cpu.sp - 2 + 1 = s.cpu.sp - 1 := by bv_omega
    have hword : wordAtSp t s.cpu.pc := by
      rw [wordAtSp, hcpu, hsp]
      exact ⟨hlo, hhi⟩
    exact hword
  · have hsetup : t.setup = s.setup := push16_setup (push16_of_stores hpush)
    have hsp : s.cpu.sp - 2 + 2 = s.cpu.sp := by bv_omega
    simp only [jumped, popped, cyclesOf, hcpu, hsetup, hsp]

/-- Settles O29: each instruction sets its flags of control and its cost. -/
theorem systemInstructionsSetTheControlFlags : Obligations.SystemInstructionsSetTheControlFlags := by
  refine fun s => ⟨codedAs_of_wf (i := .nop) rfl, ?_, codedAs_of_wf (i := .halt) rfl, ?_,
    fun padding => ⟨codedAs_of_wf (i := .stop padding) rfl, ?_⟩, codedAs_of_wf (i := .di) rfl, ?_,
    codedAs_of_wf (i := .ei) rfl, ?_⟩
  · exact exec_next_of_done (i := .nop) rfl rfl rfl (by decide)
  · exact exec_next_of_done (i := .halt) rfl rfl rfl (by decide)
  · exact exec_next_of_done (i := .stop padding) rfl rfl rfl (by decide)
  · exact exec_next_of_done (i := .di) rfl rfl rfl (by decide)
  · exact exec_next_of_done (i := .ei) rfl rfl rfl (by decide)

end Sys2Proof.Claims
end

section
/-! PROOFS. The I/O bytes (10_state.md, 20_memory.md, 61_ppu_and_dma.md): what a request, the coincidence check and a
change of mode leave in them, bit by bit, and the writes to the display's registers. -/

namespace Sys2Proof.Machine

/-! ### Bytes bit by bit -/

/-- The upper bits of one byte above other lower bits, as `STAT` is composed (R56, R104, R412). -/
theorem getLsbD_upper_append {m n k : Nat} (v : Byte) (x : BitVec m) (hn : n + m = 8) (hk : k < 8) :
    (v.extractLsb' m n ++ x).getLsbD k = if k < m then x.getLsbD k else v.getLsbD k := by
  rw [BitVec.getLsbD_append]
  split
  · rfl
  · have h1 : k - m < n := by omega
    have h2 : m + (k - m) = k := by omega
    simp [h1, h2]

theorem getLsbD_withCoincidence (b : Bool) (v : Byte) {k : Nat} (hk : k < 8) :
    (withCoincidence b v).getLsbD k = if k = 2 then b else v.getLsbD k := by
  unfold withCoincidence
  rw [BitVec.getLsbD_append, BitVec.getLsbD_append]
  rcases Nat.lt_trichotomy k 2 with h | rfl | h
  · simp [h, Nat.ne_of_lt h]
  · simp
  · have h1 : ¬ k - 2 < 1 := by omega
    have h2 : k - 2 - 1 < 5 := by omega
    have h3 : 3 + (k - 2 - 1) = k := by omega
    simp [show ¬ k < 2 by omega, Nat.ne_of_gt h, h1, h2, h3]

/-- Bytes whose two low bits agree have the same mode code (R43, R56). -/
theorem modeBits_congr {v w : Byte} (h : ∀ k, k < 2 → v.getLsbD k = w.getLsbD k) :
    v.extractLsb' 0 2 = w.extractLsb' 0 2 := by
  refine BitVec.eq_of_getLsbD_eq fun k hk => ?_
  simp [hk, h k hk]

theorem modeOfCode_code (m : PpuMode) : modeOfCode m.code = m := by
  cases m <;> rfl

end Sys2Proof.Machine

namespace Sys2Proof.Claims

open Sys2Proof.Machine

/-! ### Which I/O bytes change -/

/-- The I/O bytes are canonical in `t`, and only the named ones differ from those of `s`. -/
def IoStep (s t : State) (changed : List Nat) : Prop := t.mem.io.wf = true ∧ ioKept s t changed

theorem ioStep_of_eq {s t : State} (hw : s.mem.io.wf = true) (h : t.mem.io = s.mem.io) (changed : List Nat) :
    IoStep s t changed :=
  ⟨h ▸ hw, fun n _ => congrArg (Memory.get · n) h⟩

theorem ioStep_setIo {s : State} (hw : s.mem.io.wf = true) (n : Nat) (v : Byte) : IoStep s (setIo n v s) [n] :=
  ⟨Memory.put_wf hw n v, fun m hm => by rw [io_setIo hw, if_neg (by simpa using hm)]⟩

/-- Changes made one after another. -/
theorem IoStep.trans {s t u : State} {c d : List Nat} (h : IoStep s t c) (h' : IoStep t u d) : IoStep s u (c ++ d) :=
  ⟨h'.1, fun n hn => by
    rw [List.mem_append, not_or] at hn
    rw [h'.2 n hn.2, h.2 n hn.1]⟩

theorem IoStep.mono {s t : State} {c d : List Nat} (h : IoStep s t c) (hsub : c ⊆ d) : IoStep s t d :=
  ⟨h.1, fun n hn => h.2 n fun hc => hn (hsub hc)⟩

/-- What only changes the I/O bytes of a state keeps any that it does not name. -/
theorem IoStep.io_eq {s t : State} {c : List Nat} (h : IoStep s t c) {n : Nat} (hn : n ∉ c) : io t n = io s n := h.2 n hn

/-! ### Requests (R352) -/

theorem bitAdded_or (i : Nat) (v : Byte) : bitAdded i v (v ||| (1#8 <<< i)) := by
  intro k hk
  rw [BitVec.getLsbD_or, getLsbD_bitMask i hk]

theorem bitCleared_withoutRequest (i : Nat) (v : Byte) : bitCleared i v (withoutRequest i v) := by
  intro k hk
  rw [withoutRequest, BitVec.getLsbD_and, BitVec.getLsbD_not, getLsbD_bitMask i hk, decide_eq_true hk, Bool.true_and]
  rfl

theorem ioStep_request {s : State} (hw : s.mem.io.wf = true) (i : Nat) : IoStep s (request i s) [0x0F] :=
  ioStep_setIo hw 0x0F _

theorem ifReg_request {s : State} (hw : s.mem.io.wf = true) (i : Nat) : ifReg (request i s) = ifReg s ||| (1#8 <<< i) := by
  rw [ifReg, request, io_setIo hw, if_pos rfl]

/-- The request of a `STAT` source adds bit 1 of `IF` if its enable is set (R414). -/
theorem ioStep_statRequest {s : State} (hw : s.mem.io.wf = true) (i : Nat) : IoStep s (statRequest i s) [0x0F] := by
  unfold statRequest
  split
  · exact ioStep_request hw 1
  · exact ioStep_of_eq hw rfl _

theorem getLsbD_ifReg_statRequest {s : State} (hw : s.mem.io.wf = true) (i : Nat) {k : Nat} (hk : k < 8) :
    (ifReg (statRequest i s)).getLsbD k = ((ifReg s).getLsbD k || ((stat s).getLsbD i && k == 1)) := by
  unfold statRequest
  split
  · next h => rw [ifReg_request hw, bitAdded_or 1 _ k hk, h, Bool.true_and]
  · next h => rw [Bool.eq_false_iff.mpr h, Bool.false_and, Bool.or_false]

/-! ### The coincidence check (R420) -/

theorem ioStep_coincidenceCheck {s : State} (hw : s.mem.io.wf = true) : IoStep s (coincidenceCheck s) [0x41, 0x0F] := by
  unfold coincidenceCheck
  split
  · dsimp only
    have h1 := ioStep_setIo hw 0x41 (withCoincidence true (stat s))
    split
    · exact h1.trans (ioStep_request h1.1 1)
    · exact h1.mono (by simp)
  · exact (ioStep_setIo hw 0x41 _).mono (by simp)

theorem stat_coincidenceCheck {s : State} (hw : s.mem.io.wf = true) :
    stat (coincidenceCheck s) = withCoincidence (decide (ly s = lyc s)) (stat s) := by
  unfold coincidenceCheck
  split
  · next h =>
    dsimp only
    have h1 := ioStep_setIo hw 0x41 (withCoincidence true (stat s))
    have hstat : stat (setIo 0x41 (withCoincidence true (stat s)) s) = withCoincidence true (stat s) := by
      rw [stat, io_setIo hw, if_pos rfl]
    rw [decide_eq_true h]
    split
    · exact ((ioStep_request h1.1 1).io_eq (by decide)).trans hstat
    · exact hstat
  · next h => rw [stat, io_setIo hw, if_pos rfl, decide_eq_false h]

theorem getLsbD_ifReg_coincidenceCheck {s : State} (hw : s.mem.io.wf = true) {k : Nat} (hk : k < 8) :
    (ifReg (coincidenceCheck s)).getLsbD k =
      ((ifReg s).getLsbD k || (decide (ly s = lyc s) && (stat s).getLsbD 6 && k == 1)) := by
  unfold coincidenceCheck
  split
  · next h =>
    dsimp only
    have h1 := ioStep_setIo hw 0x41 (withCoincidence true (stat s))
    have hstat : (stat (setIo 0x41 (withCoincidence true (stat s)) s)).getLsbD 6 = (stat s).getLsbD 6 := by
      rw [stat, io_setIo hw, if_pos rfl, getLsbD_withCoincidence _ _ (by decide)]
      rfl
    have hif : ifReg (setIo 0x41 (withCoincidence true (stat s)) s) = ifReg s := h1.io_eq (by decide)
    rw [decide_eq_true h, Bool.true_and, hstat]
    split
    · next h6 => rw [ifReg_request h1.1, hif, bitAdded_or 1 _ k hk, h6, Bool.true_and]
    · next h6 => rw [hif, Bool.eq_false_iff.mpr h6, Bool.false_and, Bool.or_false]
  · next h =>
    rw [decide_eq_false h, Bool.false_and, Bool.false_and, Bool.or_false]
    exact congrArg (BitVec.getLsbD · k) ((ioStep_setIo hw 0x41 _).io_eq (n := 0x0F) (by decide))

/-- What the display's registers show after the check, seen from a state with the same requests and the same enable. -/
theorem coincides_coincidenceCheck {s u : State} (hw : u.mem.io.wf = true) (hif : ifReg u = ifReg s)
    (hstat : (stat u).getLsbD 6 = (stat s).getLsbD 6) : coincides s (coincidenceCheck u) (ly u) (lyc u) := by
  refine ⟨?_, fun k hk hne => ?_, ?_⟩
  · rw [stat_coincidenceCheck hw, getLsbD_withCoincidence _ _ (by decide), if_pos rfl, decide_eq_true_iff]
  · rw [getLsbD_ifReg_coincidenceCheck hw hk, hif, beq_false_of_ne hne, Bool.and_false, Bool.or_false]
  · rw [getLsbD_ifReg_coincidenceCheck hw (by decide), hif, hstat]
    simp

/-- The check changes bit 2 of `STAT` only, so it keeps the mode (R420). -/
theorem getLsbD_stat_coincidenceCheck {s : State} (hw : s.mem.io.wf = true) {k : Nat} (hk : k < 8) (hne : k ≠ 2) :
    (stat (coincidenceCheck s)).getLsbD k = (stat s).getLsbD k := by
  rw [stat_coincidenceCheck hw, getLsbD_withCoincidence _ _ hk, if_neg hne]

theorem ppuMode_coincidenceCheck {s : State} (hw : s.mem.io.wf = true) : ppuMode (coincidenceCheck s) = ppuMode s :=
  congrArg modeOfCode (modeBits_congr fun k hk => getLsbD_stat_coincidenceCheck hw (by omega) (by omega))

/-! ### The mode (R412) -/

theorem ioStep_setMode {s : State} (hw : s.mem.io.wf = true) (m : PpuMode) : IoStep s (setMode m s) [0x41] :=
  ioStep_setIo hw 0x41 _

theorem stat_setMode {s : State} (hw : s.mem.io.wf = true) (m : PpuMode) :
    stat (setMode m s) = (stat s).extractLsb' 2 6 ++ m.code := by
  rw [stat, setMode, io_setIo hw, if_pos rfl]

theorem getLsbD_stat_setMode {s : State} (hw : s.mem.io.wf = true) (m : PpuMode) {k : Nat} (hk : k < 8) (h2 : 2 ≤ k) :
    (stat (setMode m s)).getLsbD k = (stat s).getLsbD k := by
  rw [stat_setMode hw, getLsbD_upper_append _ _ rfl hk, if_neg (by omega)]

theorem ppuMode_setMode {s : State} (hw : s.mem.io.wf = true) (m : PpuMode) : ppuMode (setMode m s) = m := by
  rw [ppuMode, stat_setMode hw]
  have hcode : ((stat s).extractLsb' 2 6 ++ m.code).extractLsb' 0 2 = m.code := by
    refine BitVec.eq_of_getLsbD_eq fun k hk => ?_
    rw [BitVec.getLsbD_extractLsb', decide_eq_true hk, Bool.true_and, Nat.zero_add,
      getLsbD_upper_append _ _ rfl (by omega), if_pos hk]
  rw [hcode, modeOfCode_code]

/-- A mode is that of `STAT`, whatever else changes. -/
theorem ppuMode_of_stat {s t : State} (h : stat t = stat s) : ppuMode t = ppuMode s := by rw [ppuMode, ppuMode, h]

/-! ### Writes to the I/O window -/

/-- An address of the I/O window names its I/O byte (R81). -/
theorem locate_io (s : State) {n : Nat} (hn : n < 0x80) : locate s (BitVec.ofNat 16 (0xFF00 + n)) = .io n := by
  have hnat : (BitVec.ofNat 16 (0xFF00 + n)).toNat = 0xFF00 + n := by
    rw [BitVec.toNat_ofNat, Nat.mod_eq_of_lt (by omega)]
  unfold locate
  dsimp only
  rw [hnat, if_neg (by omega), if_neg (by omega), if_neg (by omega), if_neg (by omega), if_neg (by omega),
    if_neg (by omega), if_neg (by omega), if_neg (by omega), if_neg (by omega), if_pos (by omega),
    Nat.add_sub_cancel_left]

theorem writeByte_io (s : State) {n : Nat} (hn : n < 0x80) (v : Byte) :
    writeByte s (BitVec.ofNat 16 (0xFF00 + n)) v = ioWrite n v s := by
  rw [writeByte, locate_io s hn]

theorem readByte_io (s : State) {n : Nat} (hn : n < 0x80) :
    readByte s (BitVec.ofNat 16 (0xFF00 + n)) = some (ioRead s n) := by
  rw [readByte, locate_io s hn]
  rfl

/-- The write to `STAT` (R104): bits 2 to 0 are kept. -/
theorem getLsbD_stat_statWrite {s : State} (hw : s.mem.io.wf = true) (v : Byte) {k : Nat} (hk : k < 8) :
    (stat (statWrite v s)).getLsbD k = if k < 3 then (stat s).getLsbD k else v.getLsbD k := by
  rw [stat, statWrite, io_setIo hw, if_pos rfl, getLsbD_upper_append _ _ rfl hk]
  split
  · next h => simp [h]
  · rfl

theorem ioStep_lycWrite {s : State} (hw : s.mem.io.wf = true) (v : Byte) : IoStep s (lycWrite v s) [0x45, 0x41, 0x0F] :=
  (ioStep_setIo hw 0x45 v).trans (ioStep_coincidenceCheck (ioStep_setIo hw 0x45 v).1)

theorem getLsbD_stat_lycWrite {s : State} (hw : s.mem.io.wf = true) (v : Byte) {k : Nat} (hk : k < 8) (hne : k ≠ 2) :
    (stat (lycWrite v s)).getLsbD k = (stat s).getLsbD k := by
  have h1 := ioStep_setIo hw 0x45 v
  rw [lycWrite, getLsbD_stat_coincidenceCheck h1.1 hk hne]
  exact congrArg (BitVec.getLsbD · k) (h1.io_eq (n := 0x41) (by decide))

/-- The state in which switching the display off runs its coincidence check (R103). -/
def displayOff (v : Byte) (s : State) : State := setPpuCyc 0 (setMode .hBlank (setIo 0x44 0 (setIo 0x40 v s)))

theorem ioStep_displayOff {s : State} (hw : s.mem.io.wf = true) (v : Byte) :
    IoStep s (displayOff v s) [0x40, 0x44, 0x41] := by
  have h1 := ioStep_setIo hw 0x40 v
  have h2 := h1.trans (ioStep_setIo h1.1 0x44 0)
  exact h2.trans (ioStep_setMode h2.1 .hBlank)

theorem ly_displayOff {s : State} (hw : s.mem.io.wf = true) (v : Byte) : ly (displayOff v s) = 0 := by
  have h1 := ioStep_setIo hw 0x40 v
  have h2 := ioStep_setIo h1.1 0x44 0
  have hly : ly (setIo 0x44 0 (setIo 0x40 v s)) = 0 := by rw [ly, io_setIo h1.1, if_pos rfl]
  exact ((ioStep_setMode h2.1 .hBlank).io_eq (n := 0x44) (by decide)).trans hly

theorem lcdc_displayOff {s : State} (hw : s.mem.io.wf = true) (v : Byte) : lcdc (displayOff v s) = v := by
  have h1 := ioStep_setIo hw 0x40 v
  have h2 := ioStep_setIo h1.1 0x44 0
  have hlcdc : lcdc (setIo 0x44 0 (setIo 0x40 v s)) = v := by
    rw [lcdc, io_setIo h1.1, if_neg (by decide), io_setIo hw, if_pos rfl]
  exact ((ioStep_setMode h2.1 .hBlank).io_eq (n := 0x40) (by decide)).trans hlcdc

theorem ppuMode_displayOff {s : State} (hw : s.mem.io.wf = true) (v : Byte) : ppuMode (displayOff v s) = .hBlank :=
  ppuMode_setMode (ioStep_setIo (ioStep_setIo hw 0x40 v).1 0x44 0).1 .hBlank

theorem getLsbD_stat_displayOff {s : State} (hw : s.mem.io.wf = true) (v : Byte) {k : Nat} (hk : k < 8) (h2 : 2 ≤ k) :
    (stat (displayOff v s)).getLsbD k = (stat s).getLsbD k := by
  have h1 := ioStep_setIo hw 0x40 v
  have h12 := h1.trans (ioStep_setIo h1.1 0x44 0)
  refine (getLsbD_stat_setMode h12.1 .hBlank hk h2).trans ?_
  exact congrArg (BitVec.getLsbD · k) (h12.io_eq (n := 0x41) (by decide))

/-- The write to `LCDC` (R103): a store, or with the display switched off what follows it. -/
theorem lcdcWrite_off {s : State} {v : Byte} (h : (lcdc s).getLsbD 7 = true) (h' : v.getLsbD 7 = false) :
    lcdcWrite v s = coincidenceCheck (displayOff v s) := if_pos ⟨h, h'⟩

theorem lcdcWrite_store {s : State} {v : Byte} (h : (lcdc s).getLsbD 7 = false ∨ v.getLsbD 7 = true) :
    lcdcWrite v s = setIo 0x40 v s := by
  refine if_neg fun hc => ?_
  obtain ⟨hold, hnew⟩ := hc
  rw [hold, hnew] at h
  simp at h

/-- The write to `LCDC` stores its byte whatever else it does (R103). -/
theorem lcdc_lcdcWrite {s : State} (hw : s.mem.io.wf = true) (v : Byte) : lcdc (lcdcWrite v s) = v := by
  by_cases h : (lcdc s).getLsbD 7 = false ∨ v.getLsbD 7 = true
  · rw [lcdcWrite_store h, lcdc, io_setIo hw, if_pos rfl]
  · rw [not_or, Bool.not_eq_false, Bool.not_eq_true] at h
    rw [lcdcWrite_off h.1 h.2]
    exact ((ioStep_coincidenceCheck (ioStep_displayOff hw v).1).io_eq (n := 0x40) (by decide)).trans
      (lcdc_displayOff hw v)

/-! ### The statement -/

/-- Settles O40: the three writes by their bytes; the coincidence check runs in the state the write leaves. -/
theorem displayWritesHaveTheirSideEffects : Obligations.DisplayWritesHaveTheirSideEffects := by
  intro s v hc
  obtain ⟨-, -, -, -, hw, -⟩ := (Mems.canonical_iff s.mem).mp hc
  have h45 := ioStep_setIo hw 0x45 v
  have hlyc : lyc (setIo 0x45 v s) = v := by rw [lyc, io_setIo hw, if_pos rfl]
  refine ⟨⟨lcdcWrite v s, writeByte_io s (n := 0x40) (by decide) v, ?_, fun hon hoff => ?_, fun h => ?_⟩,
    ⟨statWrite v s, writeByte_io s (n := 0x41) (by decide) v, fun j hj => getLsbD_stat_statWrite hw v hj, rfl,
      (ioStep_setIo hw 0x41 _).2⟩,
    ⟨lycWrite v s, writeByte_io s (n := 0x45) (by decide) v, ?_, ?_, fun j hj hne => getLsbD_stat_lycWrite hw v hj hne,
      ?_, ((ioStep_lycWrite hw v).mono (by simp)).2⟩⟩
  · exact lcdc_lcdcWrite hw v
  · rw [lcdcWrite_off hon hoff]
    have h1 := ioStep_displayOff hw v
    have h2 := ioStep_coincidenceCheck h1.1
    refine ⟨(h2.io_eq (n := 0x44) (by decide)).trans (ly_displayOff hw v),
      (ppuMode_coincidenceCheck h1.1).trans (ppuMode_displayOff hw v), ?_, ?_, fun j hj hj8 => ?_, ?_,
      ((h1.trans h2).mono (by simp)).2⟩
    · rw [coincidenceCheck_frame]
      rfl
    · have hcoincides := coincides_coincidenceCheck h1.1 (h1.io_eq (n := 0x0F) (by decide))
        (getLsbD_stat_displayOff hw v (by decide) (by decide))
      have hlyc : lyc (displayOff v s) = lyc s := h1.io_eq (by decide)
      rwa [ly_displayOff hw v, hlyc] at hcoincides
    · rw [getLsbD_stat_coincidenceCheck h1.1 hj8 (by omega), getLsbD_stat_displayOff hw v hj8 (by omega)]
    · rw [coincidenceCheck_frame]
      rfl
  · rw [lcdcWrite_store h]
    exact ⟨rfl, (ioStep_setIo hw 0x40 v).2⟩
  · exact ((ioStep_coincidenceCheck h45.1).io_eq (n := 0x45) (by decide)).trans hlyc
  · have hcoincides := coincides_coincidenceCheck h45.1 (h45.io_eq (n := 0x0F) (by decide))
      (congrArg (BitVec.getLsbD · 6) (h45.io_eq (n := 0x41) (by decide)))
    have hly : ly (setIo 0x45 v s) = ly s := h45.io_eq (by decide)
    rwa [hly, hlyc] at hcoincides
  · rw [lycWrite, coincidenceCheck_frame]
    rfl

end Sys2Proof.Claims
end

section
/-! PROOFS. The transitions of the display (61_ppu_and_dma.md): what entering a line and entering a mode leave in the I/O
bytes, what each transition leaves, and that each keeps the schedule. -/

namespace Sys2Proof.Machine

/-! ### Entering a line and a mode (R412, R420) -/

/-- The scanline index set and its coincidence check run. -/
def enterLine (v : Byte) (s : State) : State := coincidenceCheck (setLy v s)

/-- A mode entered with the request of its `STAT` source. -/
def enterMode (m : PpuMode) (i : Nat) (s : State) : State := statRequest i (setMode m s)

/-- V-blank entered with its two requests. -/
def enterVBlank (s : State) : State := statRequest 4 (request 0 (setMode .vBlank s))

theorem leaveHBlank_eq (s : State) :
    leaveHBlank s = if (ly (enterLine (ly s + 1) s)).toNat = s.setup.display.visible then
      frameReady (enterVBlank (enterLine (ly s + 1) s))
    else enterMode .oamSearch 5 (enterLine (ly s + 1) s) := rfl

theorem leaveVBlankLine_eq (s : State) :
    leaveVBlankLine s = if (ly s).toNat + 1 = s.setup.display.lines then
      coincidenceCheck (enterMode .oamSearch 5 (setLy 0 s))
    else enterLine (ly s + 1) s := rfl

/-! ### One transition -/

/-- The state with its mode's cycles taken off, in which a transition runs. -/
def paid (s : State) : State := setPpuCyc (s.ppu.cyc - modeCycles s (ppuMode s)) s

/-- What a transition is, by the mode that ends. -/
theorem ppuTransition_eq (s : State) :
    (ppuMode s = .oamSearch → ppuTransition s = .ok () (leaveOamSearch (paid s))) ∧
      (ppuMode s = .pixelTransfer → ppuTransition s = leavePixelTransfer (paid s)) ∧
      (ppuMode s = .hBlank → ppuTransition s = .ok () (leaveHBlank (paid s))) ∧
      (ppuMode s = .vBlank → ppuTransition s = .ok () (leaveVBlankLine (paid s))) := by
  refine ⟨fun h => ?_, fun h => ?_, fun h => ?_, fun h => ?_⟩ <;> simp only [ppuTransition, paid, h]

/-- What a transition that completes can be. -/
theorem ppuTransition_cases {s t : State} (h : ppuTransition s = .ok () t) :
    (ppuMode s = .oamSearch ∧ t = leaveOamSearch (paid s)) ∨
      (ppuMode s = .pixelTransfer ∧ leavePixelTransfer (paid s) = .ok () t) ∨
      (ppuMode s = .hBlank ∧ t = leaveHBlank (paid s)) ∨ (ppuMode s = .vBlank ∧ t = leaveVBlankLine (paid s)) := by
  obtain ⟨hoam, htransfer, hhblank, hvblank⟩ := ppuTransition_eq s
  cases hm : ppuMode s with
  | oamSearch =>
    rw [hoam hm] at h
    cases h
    exact .inl ⟨rfl, rfl⟩
  | pixelTransfer => exact .inr (.inl ⟨rfl, (htransfer hm).symm.trans h⟩)
  | hBlank =>
    rw [hhblank hm] at h
    cases h
    exact .inr (.inr (.inl ⟨rfl, rfl⟩))
  | vBlank =>
    rw [hvblank hm] at h
    cases h
    exact .inr (.inr (.inr ⟨rfl, rfl⟩))

end Sys2Proof.Machine

namespace Sys2Proof.Claims

open Sys2Proof.Machine

theorem ly_setLy {s : State} (hw : s.mem.io.wf = true) (v : Byte) : ly (setLy v s) = v := by
  rw [ly, setLy, io_setIo hw, if_pos rfl]

theorem ioStep_setLy {s : State} (hw : s.mem.io.wf = true) (v : Byte) : IoStep s (setLy v s) [0x44] :=
  ioStep_setIo hw 0x44 v

theorem ioStep_enterLine {s : State} (hw : s.mem.io.wf = true) (v : Byte) :
    IoStep s (enterLine v s) [0x44, 0x41, 0x0F] :=
  (ioStep_setLy hw v).trans (ioStep_coincidenceCheck (ioStep_setLy hw v).1)

theorem ly_enterLine {s : State} (hw : s.mem.io.wf = true) (v : Byte) : ly (enterLine v s) = v :=
  ((ioStep_coincidenceCheck (ioStep_setLy hw v).1).io_eq (n := 0x44) (by decide)).trans (ly_setLy hw v)

theorem getLsbD_stat_enterLine {s : State} (hw : s.mem.io.wf = true) (v : Byte) {k : Nat} (hk : k < 8) :
    (stat (enterLine v s)).getLsbD k = if k = 2 then decide (v = lyc s) else (stat s).getLsbD k := by
  have h1 := ioStep_setLy hw v
  have hlyc : lyc (setLy v s) = lyc s := h1.io_eq (by decide)
  have hstat : stat (setLy v s) = stat s := h1.io_eq (by decide)
  rw [enterLine, stat_coincidenceCheck h1.1, getLsbD_withCoincidence _ _ hk, ly_setLy hw, hlyc, hstat]

theorem ppuMode_enterLine {s : State} (hw : s.mem.io.wf = true) (v : Byte) : ppuMode (enterLine v s) = ppuMode s := by
  have h1 := ioStep_setLy hw v
  exact (ppuMode_coincidenceCheck h1.1).trans (ppuMode_of_stat (h1.io_eq (by decide)))

theorem getLsbD_ifReg_enterLine {s : State} (hw : s.mem.io.wf = true) (v : Byte) {k : Nat} (hk : k < 8) :
    (ifReg (enterLine v s)).getLsbD k =
      ((ifReg s).getLsbD k || (decide (v = lyc s) && (stat s).getLsbD 6 && k == 1)) := by
  have h1 := ioStep_setLy hw v
  have hlyc : lyc (setLy v s) = lyc s := h1.io_eq (by decide)
  have hstat : stat (setLy v s) = stat s := h1.io_eq (by decide)
  have hif : ifReg (setLy v s) = ifReg s := h1.io_eq (by decide)
  rw [enterLine, getLsbD_ifReg_coincidenceCheck h1.1 hk, ly_setLy hw, hlyc, hstat, hif]

theorem ioStep_enterMode {s : State} (hw : s.mem.io.wf = true) (m : PpuMode) (i : Nat) :
    IoStep s (enterMode m i s) [0x41, 0x0F] :=
  (ioStep_setMode hw m).trans (ioStep_statRequest (ioStep_setMode hw m).1 i)

theorem stat_statRequest {s : State} (hw : s.mem.io.wf = true) (i : Nat) : stat (statRequest i s) = stat s :=
  (ioStep_statRequest hw i).io_eq (by decide)

theorem ppuMode_enterMode {s : State} (hw : s.mem.io.wf = true) (m : PpuMode) (i : Nat) : ppuMode (enterMode m i s) = m :=
  (ppuMode_of_stat (stat_statRequest (ioStep_setMode hw m).1 i)).trans (ppuMode_setMode hw m)

theorem getLsbD_stat_enterMode {s : State} (hw : s.mem.io.wf = true) (m : PpuMode) (i : Nat) {k : Nat} (hk : k < 8)
    (h2 : 2 ≤ k) : (stat (enterMode m i s)).getLsbD k = (stat s).getLsbD k := by
  rw [enterMode, stat_statRequest (ioStep_setMode hw m).1, getLsbD_stat_setMode hw m hk h2]

theorem getLsbD_ifReg_enterMode {s : State} (hw : s.mem.io.wf = true) (m : PpuMode) {i k : Nat} (hi : i < 8)
    (hi2 : 2 ≤ i) (hk : k < 8) :
    (ifReg (enterMode m i s)).getLsbD k = ((ifReg s).getLsbD k || ((stat s).getLsbD i && k == 1)) := by
  have h1 := ioStep_setMode hw m
  have hif : ifReg (setMode m s) = ifReg s := h1.io_eq (by decide)
  rw [enterMode, getLsbD_ifReg_statRequest h1.1 i hk, hif, getLsbD_stat_setMode hw m hi hi2]

/-- What entering V-blank leaves in the I/O bytes. -/
theorem enterVBlank_spec {s : State} (hw : s.mem.io.wf = true) :
    IoStep s (enterVBlank s) [0x41, 0x0F] ∧ ppuMode (enterVBlank s) = .vBlank ∧
      (∀ k, k < 8 → 2 ≤ k → (stat (enterVBlank s)).getLsbD k = (stat s).getLsbD k) ∧
      ∀ k, k < 8 → (ifReg (enterVBlank s)).getLsbD k =
        ((ifReg s).getLsbD k || k == 0 || ((stat s).getLsbD 4 && k == 1)) := by
  have h1 := ioStep_setMode hw .vBlank
  have h2 := ioStep_request h1.1 0
  have hstat : stat (request 0 (setMode .vBlank s)) = stat (setMode .vBlank s) := h2.io_eq (by decide)
  have hif : ifReg (setMode .vBlank s) = ifReg s := h1.io_eq (by decide)
  refine ⟨((h1.trans h2).trans (ioStep_statRequest h2.1 4)).mono (by simp), ?_, fun k hk h2k => ?_, fun k hk => ?_⟩
  · exact (ppuMode_of_stat ((stat_statRequest h2.1 4).trans hstat)).trans (ppuMode_setMode hw .vBlank)
  · rw [enterVBlank, stat_statRequest h2.1, hstat, getLsbD_stat_setMode hw _ hk h2k]
  · rw [enterVBlank, getLsbD_ifReg_statRequest h2.1 4 hk, ifReg_request h1.1, hif, bitAdded_or 0 _ k hk, hstat,
      getLsbD_stat_setMode hw _ (by decide) (by decide)]

/-! ### H-blank ends (R412) -/

/-- The scanline after the one H-blank ends on, as a number: line counts are at most 256 (`Display.wf`). -/
theorem next_line_toNat {s : State} (h : (ly s).toNat + 1 < 256) : (ly s + 1).toNat = (ly s).toNat + 1 := by
  bv_omega

theorem leaveHBlank_next {s : State} (hw : s.mem.io.wf = true) (hne : (ly s + 1).toNat ≠ s.setup.display.visible) :
    leaveHBlank s = enterMode .oamSearch 5 (enterLine (ly s + 1) s) := by
  rw [leaveHBlank_eq, ly_enterLine hw, if_neg hne]

theorem leaveHBlank_vBlank {s : State} (hw : s.mem.io.wf = true) (heq : (ly s + 1).toNat = s.setup.display.visible) :
    leaveHBlank s = frameReady (enterVBlank (enterLine (ly s + 1) s)) := by
  rw [leaveHBlank_eq, ly_enterLine hw, if_pos heq]

/-- What the end of H-blank leaves in the I/O bytes. -/
theorem leaveHBlank_spec {s : State} (hw : s.mem.io.wf = true) :
    IoStep s (leaveHBlank s) [0x44, 0x41, 0x0F] ∧ ly (leaveHBlank s) = ly s + 1 ∧
      ppuMode (leaveHBlank s) = (if (ly s + 1).toNat = s.setup.display.visible then .vBlank else .oamSearch) ∧
      (∀ k, k < 8 → 2 ≤ k → (stat (leaveHBlank s)).getLsbD k =
        if k = 2 then decide (ly s + 1 = lyc s) else (stat s).getLsbD k) ∧
      (∀ k, k < 8 → (ifReg (leaveHBlank s)).getLsbD k = ((ifReg s).getLsbD k ||
        (k == 0 && decide ((ly s + 1).toNat = s.setup.display.visible)) ||
        (k == 1 && (decide (ly s + 1 = lyc s) && (stat s).getLsbD 6 ||
          (stat s).getLsbD (if (ly s + 1).toNat = s.setup.display.visible then 4 else 5))))) := by
  have h1 := ioStep_enterLine hw (ly s + 1)
  have hly := ly_enterLine hw (ly s + 1)
  by_cases heq : (ly s + 1).toNat = s.setup.display.visible
  · rw [leaveHBlank_vBlank hw heq, if_pos heq, if_pos heq]
    obtain ⟨h2, hmode, hstat, hif⟩ := enterVBlank_spec h1.1
    refine ⟨(h1.trans h2).mono (by simp), (h2.io_eq (n := 0x44) (by decide)).trans hly, hmode, fun k hk h2k => ?_,
      fun k hk => ?_⟩
    · exact (hstat k hk h2k).trans (getLsbD_stat_enterLine hw _ hk)
    · refine (hif k hk).trans ?_
      rw [getLsbD_ifReg_enterLine hw _ hk, getLsbD_stat_enterLine hw _ (by decide), if_neg (by decide),
        decide_eq_true heq]
      generalize (k == 1) = k1
      generalize (k == 0) = k0
      cases k1 <;> cases k0 <;> simp [Bool.or_assoc]
  · rw [leaveHBlank_next hw heq, if_neg heq, if_neg heq]
    have h2 := ioStep_enterMode h1.1 .oamSearch 5
    refine ⟨(h1.trans h2).mono (by simp), (h2.io_eq (n := 0x44) (by decide)).trans hly, ppuMode_enterMode h1.1 _ _,
      fun k hk h2k => ?_, fun k hk => ?_⟩
    · rw [getLsbD_stat_enterMode h1.1 _ _ hk h2k, getLsbD_stat_enterLine hw _ hk]
    · rw [getLsbD_ifReg_enterMode h1.1 _ (by decide) (by decide) hk, getLsbD_ifReg_enterLine hw _ hk,
        getLsbD_stat_enterLine hw _ (by decide), if_neg (by decide), decide_eq_false heq]
      generalize (k == 1) = k1
      cases k1 <;> simp [Bool.or_assoc]

/-- A frame is handed over exactly where V-blank begins; the host's side changes by that only. -/
theorem leaveHBlank_frame {s : State} (hw : s.mem.io.wf = true) :
    leaveHBlank s = { s with
      mem := { s.mem with io := (leaveHBlank s).mem.io }
      host := if (ly s + 1).toNat = s.setup.display.visible then
          { s.host with frameCount := s.host.frameCount + 1, frameOut := some s.ppu.frame }
        else s.host } := by
  by_cases heq : (ly s + 1).toNat = s.setup.display.visible
  · rw [leaveHBlank_vBlank hw heq, if_pos heq, enterVBlank, statRequest_frame, enterLine, coincidenceCheck_frame]
    rfl
  · rw [leaveHBlank_next hw heq, if_neg heq, enterMode, statRequest_frame, enterLine, coincidenceCheck_frame]
    rfl

/-! ### A line of V-blank ends (R412) -/

theorem leaveVBlankLine_next {s : State} (hne : (ly s).toNat + 1 ≠ s.setup.display.lines) :
    leaveVBlankLine s = enterLine (ly s + 1) s := by
  rw [leaveVBlankLine_eq, if_neg hne]

theorem leaveVBlankLine_top {s : State} (heq : (ly s).toNat + 1 = s.setup.display.lines) :
    leaveVBlankLine s = coincidenceCheck (enterMode .oamSearch 5 (setLy 0 s)) := by
  rw [leaveVBlankLine_eq, if_pos heq]

/-- What the end of a line of V-blank leaves in the I/O bytes; `v` is the next line. -/
theorem leaveVBlankLine_spec {s : State} (hw : s.mem.io.wf = true) {v : Byte}
    (hv : v = if (ly s).toNat + 1 = s.setup.display.lines then 0 else ly s + 1) :
    IoStep s (leaveVBlankLine s) [0x44, 0x41, 0x0F] ∧ ly (leaveVBlankLine s) = v ∧
      ppuMode (leaveVBlankLine s) = (if (ly s).toNat + 1 = s.setup.display.lines then .oamSearch else ppuMode s) ∧
      (∀ k, k < 8 → 2 ≤ k → (stat (leaveVBlankLine s)).getLsbD k =
        if k = 2 then decide (v = lyc s) else (stat s).getLsbD k) ∧
      (∀ k, k < 8 → (ifReg (leaveVBlankLine s)).getLsbD k = ((ifReg s).getLsbD k ||
        (k == 1 && (decide (v = lyc s) && (stat s).getLsbD 6 ||
          decide ((ly s).toNat + 1 = s.setup.display.lines) && (stat s).getLsbD 5)))) := by
  by_cases heq : (ly s).toNat + 1 = s.setup.display.lines
  · rw [if_pos heq] at hv
    subst hv
    rw [leaveVBlankLine_top heq, if_pos heq]
    have h1 := ioStep_setLy hw 0
    have h2 := ioStep_enterMode h1.1 .oamSearch 5
    have h3 := ioStep_coincidenceCheck h2.1
    have hly : ly (enterMode .oamSearch 5 (setLy 0 s)) = 0 := (h2.io_eq (by decide)).trans (ly_setLy hw 0)
    have hlyc : lyc (enterMode .oamSearch 5 (setLy 0 s)) = lyc s := (h1.trans h2).io_eq (by decide)
    have hstat : stat (setLy 0 s) = stat s := h1.io_eq (by decide)
    have hif : ifReg (setLy 0 s) = ifReg s := h1.io_eq (by decide)
    refine ⟨((h1.trans h2).trans h3).mono (by simp), (h3.io_eq (n := 0x44) (by decide)).trans hly,
      (ppuMode_coincidenceCheck h2.1).trans (ppuMode_enterMode h1.1 _ _), fun k hk h2k => ?_, fun k hk => ?_⟩
    · rw [stat_coincidenceCheck h2.1, getLsbD_withCoincidence _ _ hk, hly, hlyc, getLsbD_stat_enterMode h1.1 _ _ hk h2k,
        hstat]
    · rw [getLsbD_ifReg_coincidenceCheck h2.1 hk, hly, hlyc,
        getLsbD_ifReg_enterMode h1.1 _ (by decide) (by decide) hk, getLsbD_stat_enterMode h1.1 _ _ (by decide) (by decide),
        hstat, hif, decide_eq_true heq]
      generalize (k == 1) = k1
      cases k1 <;> simp [Bool.or_assoc, Bool.or_comm]
  · rw [if_neg heq] at hv
    subst hv
    rw [leaveVBlankLine_next heq, if_neg heq]
    refine ⟨ioStep_enterLine hw _, ly_enterLine hw _, ppuMode_enterLine hw _,
      fun k hk _ => getLsbD_stat_enterLine hw _ hk, fun k hk => ?_⟩
    rw [getLsbD_ifReg_enterLine hw _ hk, decide_eq_false heq]
    generalize (k == 1) = k1
    cases k1 <;> simp

theorem leaveVBlankLine_frame (s : State) :
    leaveVBlankLine s = { s with mem := { s.mem with io := (leaveVBlankLine s).mem.io } } := by
  by_cases heq : (ly s).toNat + 1 = s.setup.display.lines
  · rw [leaveVBlankLine_top heq, coincidenceCheck_frame, enterMode, statRequest_frame]
    rfl
  · rw [leaveVBlankLine_next heq, enterLine, coincidenceCheck_frame]
    rfl

/-! ### Pixel-transfer ends (R412, R453) -/

/-- The state at the end of pixel-transfer before its H-blank DMA step. -/
def enterHBlank (s : State) : State := enterMode .hBlank 3 (renderScanline (ly s).toNat s)

theorem leavePixelTransfer_eq (s : State) :
    leavePixelTransfer s = if isCgb (enterHBlank s) = true ∧ (enterHBlank s).hdma.active = true then
      hdmaStep (enterHBlank s) else .ok () (enterHBlank s) := rfl

theorem enterHBlank_frame (s : State) :
    enterHBlank s = { s with
      mem := { s.mem with io := (enterHBlank s).mem.io }, ppu := (renderScanline (ly s).toNat s).ppu } := by
  rw [enterHBlank, enterMode, statRequest_frame]
  rfl

/-- Rendering changes the Pixel Processor's own state only, so entering H-blank leaves in the I/O bytes what entering
the mode does. -/
theorem enterHBlank_spec {s : State} (hw : s.mem.io.wf = true) :
    IoStep s (enterHBlank s) [0x41, 0x0F] ∧ ppuMode (enterHBlank s) = .hBlank ∧
      (∀ k, k < 8 → 2 ≤ k → (stat (enterHBlank s)).getLsbD k = (stat s).getLsbD k) ∧
      ∀ k, k < 8 → (ifReg (enterHBlank s)).getLsbD k = ((ifReg s).getLsbD k || ((stat s).getLsbD 3 && k == 1)) := by
  have hw' : (renderScanline (ly s).toNat s).mem.io.wf = true := hw
  exact ⟨ioStep_enterMode hw' .hBlank 3, ppuMode_enterMode hw' _ _,
    fun k hk h2 => getLsbD_stat_enterMode hw' _ _ hk h2,
    fun k hk => getLsbD_ifReg_enterMode hw' _ (by decide) (by decide) hk⟩

/-- The H-blank DMA step leaves the I/O bytes alone. -/
theorem leavePixelTransfer_io {s t : State} (h : leavePixelTransfer s = .ok () t) :
    t.mem.io = (enterHBlank s).mem.io ∧ t.setup = s.setup := by
  have hsetup : (enterHBlank s).setup = s.setup := by rw [enterHBlank_frame]
  rw [leavePixelTransfer_eq] at h
  split at h
  · rw [hdmaStep_frame h]
    exact ⟨rfl, hsetup⟩
  · cases h
    exact ⟨rfl, hsetup⟩

/-! ### The schedule -/

/-- The scanline and the mode are in a legal place of the schedule (R43, R58, R412): the part of `ppuLegal` that says
nothing of the cycles. -/
def OnSchedule (s : State) : Prop :=
  (ly s).toNat < s.setup.display.lines ∧ (ppuMode s = .vBlank ↔ s.setup.display.visible ≤ (ly s).toNat)

theorem onSchedule_congr {s t : State} (hsetup : t.setup = s.setup) (hly : ly t = ly s)
    (hmode : ppuMode t = ppuMode s) : OnSchedule t ↔ OnSchedule s := by
  rw [OnSchedule, OnSchedule, hsetup, hly, hmode]

/-- The line counts that `Display.wf` admits. -/
theorem display_lines {s : State} (h : s.setup.display.wf = true) :
    0 < s.setup.display.visible ∧ s.setup.display.visible < s.setup.display.lines ∧ s.setup.display.lines ≤ 256 := by
  simp only [Display.wf, Bool.and_eq_true, decide_eq_true_eq] at h
  obtain ⟨⟨⟨⟨-, hvisible⟩, hlines⟩, hmax⟩, -⟩ := h
  exact ⟨hvisible, hlines, hmax⟩

/-- A mode that is not V-blank, on the schedule, is on a visible line; V-blank is not. -/
theorem OnSchedule.visible {s : State} (h : OnSchedule s) (hmode : ppuMode s ≠ .vBlank) :
    (ly s).toNat < s.setup.display.visible :=
  Nat.lt_of_not_le fun hle => hmode (h.2.mpr hle)

/-- A mode other than V-blank entered on a visible line is on the schedule. -/
theorem onSchedule_of_visible {s : State} (hd : s.setup.display.wf = true)
    (hly : (ly s).toNat < s.setup.display.visible) (hmode : ppuMode s ≠ .vBlank) : OnSchedule s := by
  obtain ⟨-, hlines, -⟩ := display_lines hd
  exact ⟨by omega, fun h => absurd h hmode, fun h => absurd h (by omega)⟩

theorem leaveHBlank_onSchedule {s : State} (hw : s.mem.io.wf = true) (hd : s.setup.display.wf = true)
    (hs : OnSchedule s) (hmode : ppuMode s = .hBlank) : OnSchedule (leaveHBlank s) := by
  obtain ⟨-, hlines, hmax⟩ := display_lines hd
  have hvisible := hs.visible (by rw [hmode]; decide)
  have hnext := next_line_toNat (s := s) (by omega)
  obtain ⟨-, hly, hmode', -⟩ := leaveHBlank_spec hw
  have hsetup : (leaveHBlank s).setup = s.setup := by rw [leaveHBlank_frame hw]
  rw [OnSchedule, hsetup, hly, hmode', hnext]
  refine ⟨by omega, ?_⟩
  split
  · exact ⟨fun _ => by omega, fun _ => rfl⟩
  · exact ⟨nofun, fun h => absurd h (by omega)⟩

theorem leaveVBlankLine_onSchedule {s : State} (hw : s.mem.io.wf = true) (hd : s.setup.display.wf = true)
    (hs : OnSchedule s) (hmode : ppuMode s = .vBlank) : OnSchedule (leaveVBlankLine s) := by
  obtain ⟨hpos, hlines, hmax⟩ := display_lines hd
  have hvisible := hs.2.mp hmode
  obtain ⟨hlt, -⟩ := hs
  obtain ⟨-, hly, hmode', -⟩ := leaveVBlankLine_spec hw rfl
  have hsetup : (leaveVBlankLine s).setup = s.setup := by rw [leaveVBlankLine_frame]
  rw [OnSchedule, hsetup, hly, hmode', hmode]
  split
  · exact ⟨Nat.lt_trans hpos hlines, nofun, fun h => absurd h (Nat.not_le.mpr hpos)⟩
  · next hne =>
    rw [next_line_toNat (by omega)]
    exact ⟨by omega, fun _ => by omega, fun _ => rfl⟩

/-- What a run of transitions keeps: canonical I/O bytes, admitted parameters, a place on the schedule. -/
def ScheduleKept (s : State) : Prop := s.mem.io.wf = true ∧ s.setup.display.wf = true ∧ OnSchedule s

/-- A transition keeps the schedule and the canonical I/O bytes. -/
theorem ppuTransition_onSchedule {s t : State} (hw : s.mem.io.wf = true) (hd : s.setup.display.wf = true)
    (hs : OnSchedule s) (h : ppuTransition s = .ok () t) : t.mem.io.wf = true ∧ OnSchedule t := by
  have hw' : (paid s).mem.io.wf = true := hw
  have hd' : (paid s).setup.display.wf = true := hd
  have hs' : OnSchedule (paid s) := hs
  rcases ppuTransition_cases h with ⟨hm, rfl⟩ | ⟨hm, h⟩ | ⟨hm, rfl⟩ | ⟨hm, rfl⟩
  · have h1 := ioStep_setMode hw' .pixelTransfer
    refine ⟨h1.1, onSchedule_of_visible hd' ?_ ?_⟩
    · rw [show ly (leaveOamSearch (paid s)) = ly s from h1.io_eq (by decide)]
      exact hs.visible (by rw [hm]; decide)
    · rw [show ppuMode (leaveOamSearch (paid s)) = .pixelTransfer from ppuMode_setMode hw' _]
      decide
  · obtain ⟨hio, hsetup⟩ := leavePixelTransfer_io h
    obtain ⟨h1, hmode', -⟩ := enterHBlank_spec hw'
    have hly : ly t = ly s := (congrArg (Memory.get · 0x44) hio).trans (h1.io_eq (by decide))
    have hmt : ppuMode t = .hBlank := (ppuMode_of_stat (congrArg (Memory.get · 0x41) hio)).trans hmode'
    refine ⟨hio ▸ h1.1, onSchedule_of_visible (hsetup ▸ hd') ?_ ?_⟩
    · rw [hly, hsetup]
      exact hs.visible (by rw [hm]; decide)
    · rw [hmt]
      decide
  · exact ⟨(leaveHBlank_spec hw').1.1, leaveHBlank_onSchedule hw' hd' hs' hm⟩
  · exact ⟨(leaveVBlankLine_spec hw' rfl).1.1, leaveVBlankLine_onSchedule hw' hd' hs' hm⟩

/-- The advance keeps the display on schedule: a transition keeps its place, and the run ends with its cycles unspent
(R411, R412). -/
theorem ppuAdvance_ppuLegal {c : Nat} {s t : State} (hw : s.mem.io.wf = true) (hd : s.setup.display.wf = true)
    (hs : s.ppuLegal) (h : ppuAdvance c s = .ok () t) : t.mem.io.wf = true ∧ t.ppuLegal := by
  unfold ppuAdvance at h
  split at h
  · obtain ⟨hlines, hmode, -⟩ := hs
    have hP : ScheduleKept t := by
      refine ppuRun_induct ?_ h ⟨hw, hd, hlines, hmode⟩
      rintro u v ⟨huw, hud, hus⟩ - huv
      obtain ⟨hvw, hvs⟩ := ppuTransition_onSchedule huw hud hus huv
      exact ⟨hvw, by rw [ppuTransition_frame huv]; exact hud, hvs⟩
    have hcyc := ppuRun_ends (s := setPpuCyc (s.ppu.cyc + c) s) hd (Nat.lt_succ_self _) h
    obtain ⟨htw, -, htl, htm⟩ := hP
    exact ⟨htw, htl, htm, hcyc⟩
  · cases h
    exact ⟨hw, hs⟩

end Sys2Proof.Claims
end

section
/-! PROOFS. What every step keeps (R30 to R47): a property of the machine follows the parts of an iteration in their
order, and the invariants of the memories, the display and the devices. -/

namespace Sys2Proof.Machine

/-! ### A property along the parts of a step -/

/-- A property that a Processor step keeps: no change of registers, no write, no change of the request and the speed
byte and none of the host's side breaks it. -/
structure KeptByProcessor (P : State → Prop) : Prop extends KeptByStores P where
  io : ∀ s n v, n = 0x0F ∨ n = 0x4D → P s → P (setIo n v s)
  host : ∀ (s : State) (side : HostSide), P s → P { s with host := side }

/-- A property that every step keeps. -/
structure KeptByStep (P : State → Prop) : Prop extends KeptByProcessor P where
  ppu : ∀ c s t, ppuAdvance c s = .ok () t → P s → P t
  timer : ∀ c s, P s → P (timerAdvance c s)
  sched : ∀ (s : State) (x : SchedState), P s → P { s with sched := x }
  dirty : ∀ (s : State) (b : Bool), P s → P { s with ctl := { s.ctl with eramDirty := b } }

section
variable {P : State → Prop}

theorem KeptByProcessor.stoppedStep (hP : KeptByProcessor P) {s : State} (hs : P s) : P (stoppedStep s) := by
  have h1 : P (setCost (stopIdleCycles s) s) := hP.cpu _ _ (onlyCpu_cpu _ _) hs
  unfold Machine.stoppedStep
  dsimp only
  split
  · refine hP.cpu _ _ (onlyCpu_cpu _ _) ?_
    unfold speedSwitch
    split
    · exact hP.io _ _ _ (.inr rfl) h1
    · exact h1
  · have h2 : P (stopWake (setCost (stopIdleCycles s) s)).2 := by
      unfold stopWake
      split
      · exact h1
      · exact hP.host _ _ h1
    split
    · exact hP.cpu _ _ (onlyCpu_cpu _ _) h2
    · exact h2

theorem KeptByProcessor.executePath (hP : KeptByProcessor P) {s t : State} (h : executePath s = .next t) (hs : P s) :
    P t := by
  obtain ⟨i, u, v, hu, hv, rfl⟩ := executePath_next h
  exact hP.cpu _ _ (commitEnable_onlyCpu _ _) (hP.exec hv (hP.cpu _ _ (fetchInstr_onlyCpu hu) hs))

theorem KeptByProcessor.stepBody (hP : KeptByProcessor P) {s t : State} (h : stepBody s = .next t) (hs : P s) : P t := by
  rcases stepBody_next h with ⟨-, rfl⟩ | ⟨-, -, rfl⟩ | ⟨-, -, u, hu, rfl⟩
  · exact hP.stoppedStep hs
  · exact hP.cpu _ _ (haltCheck_onlyCpu _) hs
  · have hPu := hP.executePath hu hs
    split
    · exact hP.cpu _ _ (haltCheck_onlyCpu _) hPu
    · exact hPu

theorem KeptByProcessor.dispatch (hP : KeptByProcessor P) {s t : State} (h : dispatch s = .ok () t) (hs : P s) :
    P t := by
  rcases dispatch_ok h with rfl | ⟨-, -, -, i, -, ht⟩
  · exact hs
  · obtain ⟨u, hu, rfl⟩ := takeInterrupt_ok ht
    refine hP.cpu u _ (onlyCpu_cpu _ _) (hP.push hu ?_)
    exact hP.cpu (setIo 0x0F (withoutRequest i (ifReg s)) s) _ (onlyCpu_cpu _ _) (hP.io _ _ _ (.inl rfl) hs)

theorem KeptByProcessor.step (hP : KeptByProcessor P) {s t : State} (h : processorStep s = .next t) (hs : P s) : P t := by
  obtain ⟨u, v, hu, hv, rfl⟩ := processorStep_next h
  exact hP.cpu _ _ (onlyCpu_cpu _ _) (hP.dispatch hv (hP.stepBody hu (hP.cpu _ _ (onlyCpu_cpu _ _) hs)))

theorem KeptByStep.saveFlush (hP : KeptByStep P) {s : State} (hs : P s) : P (saveFlush s) := by
  unfold Machine.saveFlush
  split
  · exact hP.host { s with ctl := { s.ctl with eramDirty := false } } _ (hP.dirty s false hs)
  · exact hs

theorem KeptByStep.inputPoll (hP : KeptByStep P) {s : State} (hs : P s) : P (inputPoll s) := by
  have h1 : P (pollAnswer s).2 := by
    unfold pollAnswer
    split
    · exact hs
    · exact hP.host _ _ hs
  unfold Machine.inputPoll
  dsimp only
  have h2 : P (if (pollAnswer s).2.setup.joypadIrqOnPress &&
      newlyPressed (pollAnswer s).2.host.keys (pollAnswer s).1.keys then request 4 (pollAnswer s).2
      else (pollAnswer s).2) := by
    split
    · exact hP.io _ _ _ (.inl rfl) h1
    · exact h1
  split
  · exact hP.saveFlush (hP.host _ _ (hP.host _ _ h2))
  · exact hP.host _ _ h2

theorem KeptByStep.pollAdvance (hP : KeptByStep P) {s : State} (hs : P s) (c : Nat) : P (pollAdvance c s) := by
  unfold Machine.pollAdvance
  dsimp only
  split
  · exact hP.inputPoll (hP.sched _ _ hs)
  · exact hP.sched _ _ hs

theorem KeptByStep.flushAdvance (hP : KeptByStep P) {s : State} (hs : P s) : P (flushAdvance s) := by
  unfold Machine.flushAdvance
  split
  · exact hs
  · dsimp only
    split
    · exact hP.saveFlush (hP.host _ _ hs)
    · exact hP.host _ _ hs

theorem KeptByStep.bootHandover (hP : KeptByStep P) {s : State} (hs : P s) : P (bootHandover s) := by
  unfold Machine.bootHandover
  split
  · exact hP.cpu { s with sched := { s.sched with bootWatch := false } } _ (onlyCpu_cpu _ _) (hP.sched _ _ hs)
  · exact hs

/-- Such a property survives every step. -/
theorem KeptByStep.machineStep (hP : KeptByStep P) {s t : State} (h : step s = .next t) (hs : P s) : P t := by
  obtain ⟨-, u, v, hu, hv, rfl⟩ := step_next h
  have hPu := hP.step hu (hP.bootHandover hs)
  have hPv := hP.ppu _ _ _ hv hPu
  refine hP.flushAdvance (hP.pollAdvance ?_ _)
  unfold timerPart
  split
  · exact hPv
  · exact hP.timer _ _ hPv

end

/-! ### The canonical form along the devices -/

theorem setIo_canonical {s : State} (hc : s.mem.canonical = true) (n : Nat) (v : Byte) :
    (setIo n v s).mem.canonical = true := by
  rw [Mems.canonical_iff] at hc ⊢
  obtain ⟨h1, h2, h3, h4, h5, h6⟩ := hc
  exact ⟨h1, h2, h3, h4, Memory.put_wf h5 n v, h6⟩

/-- A state whose memories differ from canonical ones in canonical I/O bytes and canonical video RAM only. -/
theorem canonical_of_io_vram {s t : State} (hc : s.mem.canonical = true)
    (h : t.mem = { s.mem with io := t.mem.io, vram := t.mem.vram }) (hio : t.mem.io.wf = true)
    (hvram : t.mem.vram.wf = true) : t.mem.canonical = true := by
  rw [Mems.canonical_iff] at hc ⊢
  obtain ⟨-, h2, h3, h4, -, h6⟩ := hc
  rw [h]
  exact ⟨hvram, h2, h3, h4, hio, h6⟩

end Sys2Proof.Machine

namespace Sys2Proof.Claims

open Sys2Proof.Machine

/-! ### The Timer's I/O bytes -/

theorem ioStep_divAdvance {s : State} (hw : s.mem.io.wf = true) (c : Nat) : IoStep s (divAdvance c s) [0x04] := by
  unfold divAdvance
  split
  · exact ioStep_setIo (s := setDivAcc 0 (setDivReset false s)) hw 0x04 0
  · exact ioStep_setIo (s := setDivAcc _ s) hw 0x04 _

theorem ioStep_timaTick {s : State} (hw : s.mem.io.wf = true) : IoStep s (timaTick s) [0x05, 0x0F] := by
  unfold timaTick
  split
  · have h1 := ioStep_setIo hw 0x05 (tmaReg s)
    exact h1.trans (ioStep_request h1.1 2)
  · exact (ioStep_setIo hw 0x05 _).mono (by simp)

theorem ioStep_timaTicks {s : State} (hw : s.mem.io.wf = true) (n : Nat) : IoStep s (timaTicks n s) [0x05, 0x0F] := by
  induction n generalizing s with
  | zero => exact ioStep_of_eq hw rfl _
  | succ n ih => exact ((ioStep_timaTick hw).trans (ih (ioStep_timaTick hw).1)).mono (by simp)

theorem timaSelect_mem (s : State) : (timaSelect s).mem = s.mem := by
  unfold timaSelect
  dsimp only
  split <;> rfl

theorem ioStep_timaAdvance {s : State} (hw : s.mem.io.wf = true) (c : Nat) :
    IoStep s (timaAdvance c s) [0x05, 0x0F] := by
  have h0 : (timaSelect s).mem.io = s.mem.io := congrArg Mems.io (timaSelect_mem s)
  have h1 := ioStep_of_eq hw h0 []
  unfold timaAdvance
  dsimp only
  generalize timaSelect s = u at h1 ⊢
  split
  · exact h1.trans (ioStep_timaTicks (s := setTimaAcc ((u.timer.timaAcc + c) % timaPeriod u u.timer.timaSel) u) h1.1 _)
  · exact h1.mono (by simp)

theorem ioStep_timerAdvance {s : State} (hw : s.mem.io.wf = true) (c : Nat) :
    IoStep s (timerAdvance c s) [0x04, 0x05, 0x0F] :=
  (ioStep_divAdvance hw c).trans (ioStep_timaAdvance (ioStep_divAdvance hw c).1 c)

theorem timerAdvance_canonical {s : State} (hc : s.mem.canonical = true) (c : Nat) :
    (timerAdvance c s).mem.canonical = true := by
  obtain ⟨hvram, -, -, -, hw, -⟩ := (Mems.canonical_iff s.mem).mp hc
  have hio := (ioStep_timerAdvance hw c).1
  rw [timerAdvance_frame] at hio ⊢
  exact canonical_of_io_vram hc rfl hio hvram

/-! ### Video RAM along the display -/

theorem leavePixelTransfer_vram_wf {s t : State} (hv : s.mem.vram.wf = true) (h : leavePixelTransfer s = .ok () t) :
    t.mem.vram.wf = true := by
  have hv' : (enterHBlank s).mem.vram.wf = true := by
    rw [enterHBlank_frame]
    exact hv
  rw [leavePixelTransfer_eq] at h
  split at h
  · exact hdmaStep_vram_wf h hv'
  · cases h
    exact hv'

/-- A transition keeps every memory canonical. -/
theorem ppuTransition_canonical {s t : State} (hc : s.mem.canonical = true) (h : ppuTransition s = .ok () t) :
    t.mem.canonical = true := by
  obtain ⟨hv, -, -, -, hw, -⟩ := (Mems.canonical_iff s.mem).mp hc
  have hframe : t.mem = { s.mem with io := t.mem.io, vram := t.mem.vram } := by rw [ppuTransition_frame h]
  have hw' : (paid s).mem.io.wf = true := hw
  rcases ppuTransition_cases h with ⟨-, rfl⟩ | ⟨-, h⟩ | ⟨-, rfl⟩ | ⟨-, rfl⟩
  · exact canonical_of_io_vram hc hframe (ioStep_setMode hw' _).1 hv
  · refine canonical_of_io_vram hc hframe ?_ (leavePixelTransfer_vram_wf (s := paid s) hv h)
    rw [(leavePixelTransfer_io h).1]
    exact (enterHBlank_spec hw').1.1
  · refine canonical_of_io_vram hc hframe (leaveHBlank_spec hw').1.1 ?_
    rw [leaveHBlank_frame hw']
    exact hv
  · refine canonical_of_io_vram hc hframe (leaveVBlankLine_spec hw' rfl).1.1 ?_
    rw [leaveVBlankLine_frame]
    exact hv

theorem ppuAdvance_canonical {c : Nat} {s t : State} (hc : s.mem.canonical = true) (h : ppuAdvance c s = .ok () t) :
    t.mem.canonical = true := by
  unfold ppuAdvance at h
  split at h
  · exact ppuRun_induct (P := fun u => u.mem.canonical = true) (fun _ _ hu _ huv => ppuTransition_canonical hu huv) h hc
  · cases h
    exact hc

/-- Settles O55: each part of a step keeps every memory canonical. -/
theorem stepKeepsMemoriesCanonical : Obligations.StepKeepsMemoriesCanonical := by
  have hP : KeptByStep fun u => u.mem.canonical = true := {
    cpu := fun s t h hs => h.mem ▸ hs
    write := fun _ _ _ _ h hs => writeByte_canonical h hs
    io := fun _ n v _ hs => setIo_canonical hs n v
    host := fun _ _ hs => hs
    ppu := fun _ _ _ h hs => ppuAdvance_canonical hs h
    timer := fun c _ hs => timerAdvance_canonical hs c
    sched := fun _ _ hs => hs
    dirty := fun _ _ hs => hs }
  exact fun s t hc h => hP.machineStep h hc

/-! ### The display's place along a step -/

theorem ppuLegal_congr {s t : State} (hsetup : t.setup = s.setup) (hly : ly t = ly s) (hmode : ppuMode t = ppuMode s)
    (hcyc : t.ppu.cyc = s.ppu.cyc) (hs : s.ppuLegal) : t.ppuLegal := by
  have hcycles : modeCycles t (ppuMode t) = modeCycles s (ppuMode s) := by
    unfold modeCycles
    rw [hmode, hsetup]
  rw [State.ppuLegal, hcycles, hsetup, hly, hmode, hcyc]
  exact hs

/-- What writes neither `STAT` nor `LY` keeps the display's place. -/
theorem IoStep.ppuLegal {s t : State} {c : List Nat} (h : IoStep s t c) (hstat : 0x41 ∉ c) (hly : 0x44 ∉ c)
    (hsetup : t.setup = s.setup) (hcyc : t.ppu.cyc = s.ppu.cyc) (hs : s.ppuLegal) : t.ppuLegal :=
  ppuLegal_congr hsetup (h.io_eq hly) (ppuMode_of_stat (h.io_eq hstat)) hcyc hs

/-- The write to `STAT` keeps the mode, whose code are its low bits (R104). -/
theorem ppuMode_statWrite {s : State} (hw : s.mem.io.wf = true) (v : Byte) : ppuMode (statWrite v s) = ppuMode s :=
  congrArg modeOfCode (modeBits_congr fun k hk => by
    rw [getLsbD_stat_statWrite hw v (by omega), if_pos (by omega)])

theorem ppuMode_lycWrite {s : State} (hw : s.mem.io.wf = true) (v : Byte) : ppuMode (lycWrite v s) = ppuMode s :=
  congrArg modeOfCode (modeBits_congr fun k hk => getLsbD_stat_lycWrite hw v (by omega) (by omega))

/-- The write to `LCDC` keeps the display's place, or switches the display off, to scanline 0 and H-blank (R103). -/
theorem lcdcWrite_ppuLegal {s : State} (hw : s.mem.io.wf = true) (hd : s.setup.display.wf = true) (v : Byte)
    (hs : s.ppuLegal) : (lcdcWrite v s).ppuLegal := by
  by_cases h : (lcdc s).getLsbD 7 = false ∨ v.getLsbD 7 = true
  · rw [lcdcWrite_store h]
    exact (ioStep_setIo hw 0x40 v).ppuLegal (by decide) (by decide) rfl rfl hs
  · rw [not_or, Bool.not_eq_false, Bool.not_eq_true] at h
    have h1 := ioStep_displayOff hw v
    obtain ⟨hpos, hlines, -⟩ := display_lines hd
    have hoff : (displayOff v s).ppuLegal := by
      rw [State.ppuLegal, ly_displayOff hw, ppuMode_displayOff hw]
      exact ⟨Nat.lt_trans hpos hlines, ⟨nofun, fun hle => absurd hle (Nat.not_le.mpr hpos)⟩,
        modeCycles_pos (s := displayOff v s) hd .hBlank⟩
    rw [lcdcWrite_off h.1 h.2]
    refine ppuLegal_congr ?_ ((ioStep_coincidenceCheck h1.1).io_eq (by decide)) (ppuMode_coincidenceCheck h1.1) ?_ hoff
    · rw [coincidenceCheck_frame]
    · rw [coincidenceCheck_frame]

/-- No write takes the display off its schedule: only those of `LCDC`, `STAT` and `LYC` come near it. -/
theorem ioWrite_ppuLegal {n : Nat} {v : Byte} {s t : State} (h : ioWrite n v s = .ok () t) (hw : s.mem.io.wf = true)
    (hd : s.setup.display.wf = true) (hs : s.ppuLegal) : t.ppuLegal := by
  rcases ioWrite_cases h with ⟨-, rfl⟩ | ⟨-, rfl⟩ | ⟨-, rfl⟩ | ⟨-, rfl⟩ | ⟨-, rfl⟩ | ⟨-, rfl⟩ | ⟨-, rfl⟩ | ⟨-, h⟩ |
    ⟨-, rfl⟩ | ⟨-, -, rfl⟩ | ⟨-, -, h⟩ | ⟨-, -, rfl⟩ | ⟨-, -, rfl⟩ | ⟨-, -, -, -, h41, h44, -, -, -, -, rfl⟩
  · exact hs
  · have h1 := (ioStep_setIo hw 0x01 v).ppuLegal (by decide) (by decide) rfl rfl hs
    unfold sbWrite
    dsimp only
    split <;> exact h1
  · exact (ioStep_setIo hw 0x04 0).ppuLegal (by decide) (by decide) rfl rfl hs
  · exact lcdcWrite_ppuLegal hw hd v hs
  · have hly : ly (statWrite v s) = ly s := (ioStep_setIo hw 0x41 _).io_eq (n := 0x44) (by decide)
    exact ppuLegal_congr (s := s) rfl hly (ppuMode_statWrite hw v) rfl hs
  · exact hs
  · refine ppuLegal_congr ?_ ((ioStep_lycWrite hw v).io_eq (n := 0x44) (by decide)) (ppuMode_lycWrite hw v) ?_ hs
    · rw [lycWrite, coincidenceCheck_frame]
      rfl
    · rw [lycWrite, coincidenceCheck_frame]
      rfl
  · rw [dmaWrite_frame h]
    exact (ioStep_setIo hw 0x46 v).ppuLegal (by decide) (by decide) rfl rfl hs
  · exact (ioStep_setIo hw 0x50 v).ppuLegal (by decide) (by decide) rfl rfl hs
  · exact (ioStep_setIo hw 0x4D _).ppuLegal (by decide) (by decide) rfl rfl hs
  · rw [hdma5Write_frame h]
    exact hs
  · exact (ioStep_setIo hw 0x68 _).ppuLegal (by decide) (by decide) rfl rfl hs
  · exact (ioStep_setIo hw 0x6A _).ppuLegal (by decide) (by decide) rfl rfl hs
  · exact (ioStep_setIo hw n v).ppuLegal (by simpa using Ne.symm h41) (by simpa using Ne.symm h44) rfl rfl hs

theorem writeByte_ppuLegal {s t : State} {addr : Word} {v : Byte} (h : writeByte s addr v = .ok () t)
    (hw : s.mem.io.wf = true) (hd : s.setup.display.wf = true) (hs : s.ppuLegal) : t.ppuLegal := by
  rcases writeByte_cases h with ⟨-, rfl⟩ | ⟨_, -, rfl⟩ | ⟨_, -, rfl⟩ | ⟨_, -, rfl⟩ | ⟨_, -, rfl⟩ | ⟨_, -, h⟩ |
    ⟨_, -, rfl⟩ | ⟨-, rfl⟩
  case inl => rw [bankWrite_frame]; exact hs
  case inr.inr.inr.inr.inr.inl => exact ioWrite_ppuLegal h hw hd hs
  all_goals exact hs

/-- What a step keeps of the display: it is on its schedule, for admitted parameters and canonical memories. -/
def DisplayKept (s : State) : Prop := s.mem.canonical = true ∧ s.setup.display.wf = true ∧ s.ppuLegal

theorem DisplayKept.io_wf {s : State} (h : DisplayKept s) : s.mem.io.wf = true :=
  ((Mems.canonical_iff s.mem).mp h.1).2.2.2.2.1

theorem displayKept_step : KeptByStep DisplayKept where
  cpu s t h hs := by
    rw [h]
    exact hs
  write s _ _ t h hs := ⟨writeByte_canonical h hs.1, (writeByte_frame h).1 ▸ hs.2.1,
    writeByte_ppuLegal h hs.io_wf hs.2.1 hs.2.2⟩
  io s n v hn hs := ⟨setIo_canonical hs.1 n v, hs.2.1, (ioStep_setIo hs.io_wf n v).ppuLegal
    (by rcases hn with rfl | rfl <;> decide) (by rcases hn with rfl | rfl <;> decide) rfl rfl hs.2.2⟩
  host _ _ hs := hs
  ppu _ s t h hs := ⟨ppuAdvance_canonical hs.1 h, by rw [ppuAdvance_frame h]; exact hs.2.1,
    (ppuAdvance_ppuLegal hs.io_wf hs.2.1 hs.2.2 h).2⟩
  timer c s hs := by
    have hframe := timerAdvance_frame c s
    refine ⟨timerAdvance_canonical hs.1 c, by rw [hframe]; exact hs.2.1, ?_⟩
    exact (ioStep_timerAdvance hs.io_wf c).ppuLegal (by decide) (by decide) (by rw [hframe]) (by rw [hframe]) hs.2.2
  sched _ _ hs := hs
  dirty _ _ hs := hs

/-- Settles O56: no write, no interrupt entry and no device but the display itself moves it, and its transitions follow
the schedule. -/
theorem stepKeepsTheDisplayOnSchedule : Obligations.StepKeepsTheDisplayOnSchedule :=
  fun _ _ hc hd hs h => (displayKept_step.machineStep h ⟨hc, hd, hs⟩).2.2

end Sys2Proof.Claims
end

section
/-! PROOFS. The address map (20_memory.md): what each range names, what a read returns there and what a write does, and
the bank controller's registers. -/

namespace Sys2Proof.Machine

/-! ### What each range names (R81) -/

section
variable {s : State} {addr : Word}

theorem locate_boot (h : addr.toNat < 0x100) (hb : s.ctl.bootActive = true) : locate s addr = .boot addr.toNat :=
  if_pos ⟨h, hb⟩

theorem locate_rom (h : addr.toNat < 0x4000) (hb : s.ctl.bootActive = false ∨ 0x100 ≤ addr.toNat) :
    locate s addr = .rom addr.toNat := by
  have hnot : ¬(addr.toNat < 0x0100 ∧ s.ctl.bootActive = true) := by
    rintro ⟨hlt, hactive⟩
    rcases hb with hb | hb
    · rw [hb] at hactive
      cases hactive
    · omega
  exact (if_neg hnot).trans (if_pos h)

theorem locate_bankedRom (h : 0x4000 ≤ addr.toNat) (h' : addr.toNat < 0x8000) :
    locate s addr = .rom (romBank s * 0x4000 + (addr.toNat - 0x4000)) := by
  simp only [locate]
  rw [if_neg (by omega), if_neg (by omega), if_pos h']

theorem locate_vram (h : 0x8000 ≤ addr.toNat) (h' : addr.toNat < 0xA000) :
    locate s addr = .vram (vramBank s * 0x2000 + (addr.toNat - 0x8000)) := by
  simp only [locate]
  rw [if_neg (by omega), if_neg (by omega), if_neg (by omega), if_pos h']

theorem locate_external (h : 0xA000 ≤ addr.toNat) (h' : addr.toNat < 0xC000) :
    locate s addr = if s.ctl.eramEnabled = true ∧ extOffset s addr < s.setup.cart.ramBytes then
      .eram (extOffset s addr) else .nothing := by
  simp only [locate]
  rw [if_neg (by omega), if_neg (by omega), if_neg (by omega), if_neg (by omega), if_pos h']

/-- There is external RAM where it is enabled and the bank's byte is one of it (R94). -/
theorem locate_external_eq_nothing (h : 0xA000 ≤ addr.toNat) (h' : addr.toNat < 0xC000) :
    locate s addr = .nothing ↔
      s.ctl.eramEnabled = false ∨ s.setup.cart.ramBytes ≤ ramBank s * 0x2000 + (addr.toNat - 0xA000) := by
  by_cases hc : s.ctl.eramEnabled = true ∧ extOffset s addr < s.setup.cart.ramBytes
  · obtain ⟨he, hr⟩ := hc
    refine iff_of_false ?_ (not_or.mpr ⟨by rw [he]; decide, Nat.not_le.mpr hr⟩)
    rw [locate_external h h', if_pos ⟨he, hr⟩]
    exact nofun
  · refine iff_of_true ((locate_external h h').trans (if_neg hc)) ?_
    rwa [not_and_or, Bool.not_eq_true, Nat.not_lt] at hc

theorem locate_wram (h : 0xC000 ≤ addr.toNat) (h' : addr.toNat < 0xE000) : locate s addr = wramLoc s addr.toNat := by
  simp only [locate]
  rw [if_neg (by omega), if_neg (by omega), if_neg (by omega), if_neg (by omega), if_neg (by omega), if_pos h']

theorem locate_echo (h : 0xE000 ≤ addr.toNat) (h' : addr.toNat < 0xFE00) :
    locate s addr = wramLoc s (addr.toNat - 0x2000) := by
  simp only [locate]
  rw [if_neg (by omega), if_neg (by omega), if_neg (by omega), if_neg (by omega), if_neg (by omega), if_neg (by omega),
    if_pos h']

theorem locate_oam (h : 0xFE00 ≤ addr.toNat) (h' : addr.toNat < 0xFEA0) :
    locate s addr = .oam (addr.toNat - 0xFE00) := by
  simp only [locate]
  rw [if_neg (by omega), if_neg (by omega), if_neg (by omega), if_neg (by omega), if_neg (by omega), if_neg (by omega),
    if_neg (by omega), if_pos h']

theorem locate_unmapped (h : 0xFEA0 ≤ addr.toNat) (h' : addr.toNat < 0xFF00) : locate s addr = .nothing := by
  simp only [locate]
  rw [if_neg (by omega), if_neg (by omega), if_neg (by omega), if_neg (by omega), if_neg (by omega), if_neg (by omega),
    if_neg (by omega), if_neg (by omega), if_pos h']

theorem locate_window (h : 0xFF00 ≤ addr.toNat) (h' : addr.toNat < 0xFF80) :
    locate s addr = .io (addr.toNat - 0xFF00) := by
  simp only [locate]
  rw [if_neg (by omega), if_neg (by omega), if_neg (by omega), if_neg (by omega), if_neg (by omega), if_neg (by omega),
    if_neg (by omega), if_neg (by omega), if_neg (by omega), if_pos h']

theorem locate_hram (h : 0xFF80 ≤ addr.toNat) (h' : addr.toNat < 0xFFFF) :
    locate s addr = .hram (addr.toNat - 0xFF80) := by
  simp only [locate]
  rw [if_neg (by omega), if_neg (by omega), if_neg (by omega), if_neg (by omega), if_neg (by omega), if_neg (by omega),
    if_neg (by omega), if_neg (by omega), if_neg (by omega), if_neg (by omega), if_pos h']

theorem locate_ie (s : State) : locate s 0xFFFF = .ie := by
  simp [locate]

theorem wramLoc_fixed {n : Nat} (h : n < 0xD000) : wramLoc s n = .wram (n - 0xC000) := if_pos h

theorem wramLoc_banked {n : Nat} (h : 0xD000 ≤ n) : wramLoc s n = .wram (wramBank s * 0x1000 + (n - 0xD000)) :=
  if_neg (by omega)

/-- Work RAM is always there. -/
theorem exists_wramLoc (s : State) (n : Nat) : ∃ off, wramLoc s n = .wram off := by
  rcases Nat.lt_or_ge n 0xD000 with h | h
  · exact ⟨_, wramLoc_fixed h⟩
  · exact ⟨_, wramLoc_banked h⟩

theorem readByte_of_locate {loc : Loc} (h : locate s addr = loc) : readByte s addr = readLoc s loc := congrArg _ h

/-- A place without a byte is the place that names nothing. -/
theorem readLoc_eq_none {loc : Loc} : readLoc s loc = none ↔ loc = .nothing := by
  cases loc <;> simp [readLoc]

/-- Below `0x8000` stand the boot overlay and the cartridge image. -/
theorem locate_below (h : addr.toNat < 0x8000) : (∃ i, locate s addr = .boot i) ∨ ∃ off, locate s addr = .rom off := by
  rcases Nat.lt_or_ge addr.toNat 0x4000 with hlow | hlow
  · rcases Nat.lt_or_ge addr.toNat 0x100 with hboot | hboot
    · rcases hb : s.ctl.bootActive
      · exact .inr ⟨_, locate_rom hlow (.inl hb)⟩
      · exact .inl ⟨_, locate_boot hboot hb⟩
    · exact .inr ⟨_, locate_rom hlow (.inr hboot)⟩
  · exact .inr ⟨_, locate_bankedRom hlow h⟩

/-- The place an address names, by the ranges of the map (R81). -/
theorem locate_cases (s : State) (addr : Word) :
    (addr.toNat < 0x8000 ∧ ((∃ i, locate s addr = .boot i) ∨ ∃ off, locate s addr = .rom off)) ∨
      (0x8000 ≤ addr.toNat ∧ addr.toNat < 0xA000 ∧
        locate s addr = .vram (vramBank s * 0x2000 + (addr.toNat - 0x8000))) ∨
      (0xA000 ≤ addr.toNat ∧ addr.toNat < 0xC000 ∧
        (locate s addr = .eram (extOffset s addr) ∨ locate s addr = .nothing)) ∨
      (0xC000 ≤ addr.toNat ∧ addr.toNat < 0xFE00 ∧ ∃ off, locate s addr = .wram off) ∨
      (0xFE00 ≤ addr.toNat ∧ addr.toNat < 0xFEA0 ∧ locate s addr = .oam (addr.toNat - 0xFE00)) ∨
      (0xFEA0 ≤ addr.toNat ∧ addr.toNat < 0xFF00 ∧ locate s addr = .nothing) ∨
      (0xFF00 ≤ addr.toNat ∧ addr.toNat < 0xFF80 ∧ locate s addr = .io (addr.toNat - 0xFF00)) ∨
      (0xFF80 ≤ addr.toNat ∧ addr.toNat < 0xFFFF ∧ locate s addr = .hram (addr.toNat - 0xFF80)) ∨
      (addr.toNat = 0xFFFF ∧ locate s addr = .ie) := by
  rcases Nat.lt_or_ge addr.toNat 0x8000 with h | h1
  · exact .inl ⟨h, locate_below h⟩
  refine .inr ?_
  rcases Nat.lt_or_ge addr.toNat 0xA000 with h | h2
  · exact .inl ⟨h1, h, locate_vram h1 h⟩
  refine .inr ?_
  rcases Nat.lt_or_ge addr.toNat 0xC000 with h | h3
  · refine .inl ⟨h2, h, ?_⟩
    rw [locate_external h2 h]
    exact ite_eq_or_eq _ _ _
  refine .inr ?_
  rcases Nat.lt_or_ge addr.toNat 0xFE00 with h | h4
  · refine .inl ⟨h3, h, ?_⟩
    rcases Nat.lt_or_ge addr.toNat 0xE000 with h5 | h5
    · rw [locate_wram h3 h5]
      exact exists_wramLoc _ _
    · rw [locate_echo h5 h]
      exact exists_wramLoc _ _
  refine .inr ?_
  rcases Nat.lt_or_ge addr.toNat 0xFEA0 with h | h5
  · exact .inl ⟨h4, h, locate_oam h4 h⟩
  refine .inr ?_
  rcases Nat.lt_or_ge addr.toNat 0xFF00 with h | h6
  · exact .inl ⟨h5, h, locate_unmapped h5 h⟩
  refine .inr ?_
  rcases Nat.lt_or_ge addr.toNat 0xFF80 with h | h7
  · exact .inl ⟨h6, h, locate_window h6 h⟩
  refine .inr ?_
  rcases Nat.lt_or_ge addr.toNat 0xFFFF with h | h8
  · exact .inl ⟨h7, h, locate_hram h7 h⟩
  · have htop : addr = 0xFFFF := by bv_omega
    exact .inr (htop ▸ ⟨rfl, locate_ie s⟩)

/-- Nothing is named exactly by disabled or missing external RAM and by `0xFEA0` to `0xFEFF` (R94, R98). -/
theorem locate_eq_nothing :
    locate s addr = .nothing ↔
      (0xA000 ≤ addr.toNat ∧ addr.toNat < 0xC000 ∧
        (s.ctl.eramEnabled = false ∨ s.setup.cart.ramBytes ≤ ramBank s * 0x2000 + (addr.toNat - 0xA000))) ∨
      (0xFEA0 ≤ addr.toNat ∧ addr.toNat < 0xFF00) := by
  constructor
  · intro hn
    rcases locate_cases s addr with ⟨-, ⟨_, h⟩ | ⟨_, h⟩⟩ | ⟨-, -, h⟩ | ⟨h1, h2, -⟩ | ⟨-, -, _, h⟩ | ⟨-, -, h⟩ |
      ⟨h1, h2, -⟩ | ⟨-, -, h⟩ | ⟨-, -, h⟩ | ⟨-, h⟩
    case inr.inr.inl => exact .inl ⟨h1, h2, (locate_external_eq_nothing h1 h2).mp hn⟩
    case inr.inr.inr.inr.inr.inl => exact .inr ⟨h1, h2⟩
    all_goals cases hn.symm.trans h
  · rintro (⟨h1, h2, hn⟩ | ⟨h1, h2⟩)
    · exact (locate_external_eq_nothing h1 h2).mpr hn
    · exact locate_unmapped h1 h2

/-- A byte of video RAM is named by its address only (R93). -/
theorem locate_eq_vram {off : Nat} (hv : locate s addr = .vram off) : 0x8000 ≤ addr.toNat ∧ addr.toNat < 0xA000 := by
  rcases locate_cases s addr with ⟨-, ⟨_, h⟩ | ⟨_, h⟩⟩ | ⟨h1, h2, -⟩ | ⟨-, -, h | h⟩ | ⟨-, -, _, h⟩ | ⟨-, -, h⟩ |
    ⟨-, -, h⟩ | ⟨-, -, h⟩ | ⟨-, -, h⟩ | ⟨-, h⟩
  case inr.inl => exact ⟨h1, h2⟩
  all_goals cases hv.symm.trans h

/-- A byte of OAM is named by its address only (R97). -/
theorem locate_eq_oam {off : Nat} (ho : locate s addr = .oam off) : addr.toNat = 0xFE00 + off := by
  rcases locate_cases s addr with ⟨-, ⟨_, h⟩ | ⟨_, h⟩⟩ | ⟨-, -, h⟩ | ⟨-, -, h | h⟩ | ⟨-, -, _, h⟩ | ⟨h1, -, h⟩ |
    ⟨-, -, h⟩ | ⟨-, -, h⟩ | ⟨-, -, h⟩ | ⟨-, h⟩
  case inr.inr.inr.inr.inl =>
    have hoff := Loc.oam.inj (ho.symm.trans h)
    omega
  all_goals cases ho.symm.trans h

/-- A byte of the I/O window is named by its address only (R81). -/
theorem locate_eq_io {n : Nat} (hio : locate s addr = .io n) : addr = BitVec.ofNat 16 (0xFF00 + n) ∧ n < 0x80 := by
  rcases locate_cases s addr with ⟨-, ⟨_, h⟩ | ⟨_, h⟩⟩ | ⟨-, -, h⟩ | ⟨-, -, h | h⟩ | ⟨-, -, _, h⟩ | ⟨-, -, h⟩ |
    ⟨-, -, h⟩ | ⟨h1, h2, h⟩ | ⟨-, -, h⟩ | ⟨-, h⟩
  case inr.inr.inr.inr.inr.inr.inl =>
    have hn := Loc.io.inj (hio.symm.trans h)
    exact ⟨BitVec.eq_of_toNat_eq (by rw [BitVec.toNat_ofNat]; omega), by omega⟩
  all_goals cases hio.symm.trans h

/-! ### Writes by place -/

theorem writeByte_below (h : addr.toNat < 0x8000) (v : Byte) : writeByte s addr v = .ok () (bankWrite addr v s) := by
  unfold writeByte
  rcases locate_below (s := s) h with ⟨_, h⟩ | ⟨_, h⟩ <;> rw [h]

theorem writeByte_wramLoc {n : Nat} (h : locate s addr = wramLoc s n) (v : Byte) :
    ∃ off, wramLoc s n = .wram off ∧ writeByte s addr v = .ok () (setWram off v s) := by
  obtain ⟨off, hoff⟩ := exists_wramLoc s n
  refine ⟨off, hoff, ?_⟩
  rw [writeByte, h, hoff]

theorem writeByte_nothing (h : locate s addr = .nothing) (v : Byte) : writeByte s addr v = .fatal addr s := by
  rw [writeByte, h]

end

theorem cgbIoWrite_ok {n : Nat} {s : State} (h55 : n ≠ 0x55) (v : Byte) : ∃ t, cgbIoWrite n v s = .ok () t := by
  unfold cgbIoWrite
  rw [if_neg h55]
  repeat' split
  all_goals exact ⟨_, rfl⟩

/-- An I/O write succeeds, but for the two that copy (R106, R452). -/
theorem ioWrite_ok {n : Nat} {s : State} (h46 : n ≠ 0x46) (h55 : isCgb s = false ∨ n ≠ 0x55) (v : Byte) :
    ∃ t, ioWrite n v s = .ok () t := by
  unfold ioWrite
  rw [if_neg h46]
  repeat' split
  all_goals first
    | exact ⟨_, rfl⟩
    | exact cgbIoWrite_ok (h55.resolve_left (by simp [*])) v

end Sys2Proof.Machine

namespace Sys2Proof.Claims

open Sys2Proof.Machine

/-- Settles O34: a read is that of the place its range names. -/
theorem readsFollowTheAddressMap : Obligations.ReadsFollowTheAddressMap := fun s addr =>
  ⟨fun h hb => readByte_of_locate (locate_boot h hb), fun h hb => readByte_of_locate (locate_rom h hb),
    fun h h' => readByte_of_locate (locate_bankedRom h h'), fun h h' => readByte_of_locate (locate_vram h h'),
    fun h h' he hr => readByte_of_locate ((locate_external h h').trans (if_pos ⟨he, hr⟩)),
    fun h h' => readByte_of_locate ((locate_wram h (by omega)).trans (wramLoc_fixed h')),
    fun h h' => readByte_of_locate ((locate_wram (by omega) h').trans (wramLoc_banked h)),
    fun h h' => readByte_of_locate (locate_oam h h'), fun h h' => readByte_of_locate (locate_hram h h'),
    readByte_of_locate (locate_ie s)⟩

/-- Settles O35: the echo names the place in work RAM that the address `0x2000` lower names. -/
theorem echoIsTheSameStorage : Obligations.EchoIsTheSameStorage := by
  intro s addr h h'
  have hlow : (addr - 0x2000).toNat = addr.toNat - 0x2000 := by bv_omega
  have hsame : locate s (addr - 0x2000) = wramLoc s (addr.toNat - 0x2000) := by
    rw [locate_wram (by omega) (by omega), hlow]
  have hecho := locate_echo (s := s) h h'
  refine ⟨by rw [readByte, readByte, hecho, hsame], fun v => ?_⟩
  obtain ⟨off, hoff, hw⟩ := writeByte_wramLoc hecho v
  obtain ⟨off', hoff', hw'⟩ := writeByte_wramLoc hsame v
  rw [hoff] at hoff'
  cases hoff'
  rw [hw, hw']

/-! ### The I/O window -/

theorem getLsbD_fourBits : ∀ a b c d : Bool,
    let v : BitVec 4 := BitVec.ofBool a ++ BitVec.ofBool b ++ BitVec.ofBool c ++ BitVec.ofBool d
    v.getLsbD 0 = d ∧ v.getLsbD 1 = c ∧ v.getLsbD 2 = b ∧ v.getLsbD 3 = a := by
  decide

theorem getLsbD_muted (off : Bool) (v : BitVec 4) (k : Nat) :
    (if off then 0#4 else v).getLsbD k = (!off && v.getLsbD k) := by
  cases off <;> simp

/-- The joypad's lower bits: a zero for a pressed key of a selected group (R99). -/
theorem getLsbD_joypadLines (k : Keys) (select : BitVec 2) :
    (joypadLines k select).getLsbD 0 = (!select.getLsbD 0 && k.right || !select.getLsbD 1 && k.a) ∧
      (joypadLines k select).getLsbD 1 = (!select.getLsbD 0 && k.left || !select.getLsbD 1 && k.b) ∧
      (joypadLines k select).getLsbD 2 = (!select.getLsbD 0 && k.up || !select.getLsbD 1 && k.select) ∧
      (joypadLines k select).getLsbD 3 = (!select.getLsbD 0 && k.down || !select.getLsbD 1 && k.start) := by
  obtain ⟨d0, d1, d2, d3⟩ := getLsbD_fourBits k.down k.up k.left k.right
  obtain ⟨a0, a1, a2, a3⟩ := getLsbD_fourBits k.start k.select k.b k.a
  simp only [joypadLines, BitVec.getLsbD_or, getLsbD_muted, d0, d1, d2, d3, a0, a1, a2, a3, and_self]

/-- A line is low where a selected group has its key pressed (R99). -/
theorem keyLine_low : ∀ sel₀ sel₁ direction action : Bool,
    (!(!sel₀ && direction || !sel₁ && action)) = false ↔
      (sel₀ = false ∧ direction = true) ∨ (sel₁ = false ∧ action = true) := by
  decide

theorem getLsbD_joypadByte_low (s : State) {k : Nat} (hk : k < 4) :
    (joypadByte s).getLsbD k = !(joypadLines s.host.keys s.ctl.joySelect).getLsbD k := by
  rw [joypadByte, BitVec.getLsbD_append, if_pos hk, BitVec.getLsbD_not, decide_eq_true hk, Bool.true_and]

theorem getLsbD_joypadByte_high (s : State) :
    (joypadByte s).getLsbD 7 = true ∧ (joypadByte s).getLsbD 6 = true ∧
      (joypadByte s).getLsbD 5 = s.ctl.joySelect.getLsbD 1 ∧ (joypadByte s).getLsbD 4 = s.ctl.joySelect.getLsbD 0 := by
  simp only [joypadByte, BitVec.getLsbD_append]
  simp

/-- A read of the I/O window at an address with no row of its own (R99, R100). -/
theorem ioRead_plain {s : State} {n : Nat} (hn : n ≠ 0) (h : isCgb s = true → n ∉ [0x55, 0x69, 0x6B]) :
    ioRead s n = io s n := by
  have hne : isCgb s = true → n ≠ 0x55 ∧ n ≠ 0x69 ∧ n ≠ 0x6B := fun hc => by simpa using h hc
  unfold ioRead
  rw [if_neg hn, if_neg fun hc => (hne hc.1).1 hc.2, if_neg fun hc => (hne hc.1).2.1 hc.2,
    if_neg fun hc => (hne hc.1).2.2 hc.2]

/-- Settles O42: the reads by the rows of R99. -/
theorem ioReadsAreComputedOrPlain : Obligations.IoReadsAreComputedOrPlain := by
  intro s
  refine ⟨⟨joypadByte s, readByte_io s (n := 0) (by decide), ?_⟩, fun hcgb => ⟨fun hoff => ?_, fun hon => ?_, ?_, ?_⟩,
    fun n hn0 hn hplain => ?_⟩
  · obtain ⟨h7, h6, h5, h4⟩ := getLsbD_joypadByte_high s
    obtain ⟨h0, h1, h2, h3⟩ := getLsbD_joypadLines s.host.keys s.ctl.joySelect
    refine ⟨h7, h6, h5, h4, fun k direction action hkey => ?_⟩
    simp only [List.mem_cons, List.not_mem_nil, or_false, Prod.mk.injEq] at hkey
    rcases hkey with ⟨rfl, rfl, rfl⟩ | ⟨rfl, rfl, rfl⟩ | ⟨rfl, rfl, rfl⟩ | ⟨rfl, rfl, rfl⟩
    · rw [getLsbD_joypadByte_low s (by decide), h0]
      exact keyLine_low _ _ _ _
    · rw [getLsbD_joypadByte_low s (by decide), h1]
      exact keyLine_low _ _ _ _
    · rw [getLsbD_joypadByte_low s (by decide), h2]
      exact keyLine_low _ _ _ _
    · rw [getLsbD_joypadByte_low s (by decide), h3]
      exact keyLine_low _ _ _ _
  · refine (readByte_io s (n := 0x55) (by decide)).trans (congrArg some ?_)
    simp [ioRead, hcgb, hdma5Byte, hoff]
  · refine ⟨hdma5Byte s, (readByte_io s (n := 0x55) (by decide)).trans (congrArg some ?_), ?_⟩
    · simp [ioRead, hcgb]
    · rw [hdma5Byte, if_pos hon, BitVec.toNat_ofNat]
      omega
  · refine (readByte_io s (n := 0x69) (by decide)).trans (congrArg some ?_)
    simp [ioRead, hcgb, palIndex]
  · refine (readByte_io s (n := 0x6B) (by decide)).trans (congrArg some ?_)
    simp [ioRead, hcgb, palIndex]
  · exact (readByte_io s hn).trans (congrArg some (ioRead_plain (Nat.ne_of_gt hn0) hplain))

/-- A write to the I/O window at an address with no row of its own (R101). -/
theorem ioWrite_plain {s : State} {n : Nat} (h : n ∉ [0x00, 0x01, 0x04, 0x40, 0x41, 0x44, 0x45, 0x46, 0x50])
    (hcgb : isCgb s = true → n ∉ [0x4D, 0x55, 0x69, 0x6B]) (v : Byte) : ioWrite n v s = .ok () (setIo n v s) := by
  simp only [List.mem_cons, List.not_mem_nil, or_false, not_or] at h hcgb
  obtain ⟨h00, h01, h04, h40, h41, h44, h45, h46, h50⟩ := h
  unfold ioWrite
  rw [if_neg h00, if_neg h01, if_neg h04, if_neg h40, if_neg h41, if_neg h44, if_neg h45, if_neg h46, if_neg h50]
  split
  · next hc =>
    obtain ⟨h4D, h55, h69, h6B⟩ := hcgb hc
    rw [cgbIoWrite, if_neg h4D, if_neg h55, if_neg h69, if_neg h6B]
  · rfl

theorem ioWrite_cgb {s : State} (hcgb : isCgb s = true) {n : Nat} (h : n ∈ [0x4D, 0x55, 0x69, 0x6B]) (v : Byte) :
    ioWrite n v s = cgbIoWrite n v s := by
  simp only [List.mem_cons, List.not_mem_nil, or_false] at h
  rcases h with rfl | rfl | rfl | rfl <;> exact if_pos hcgb

theorem palIndexAfter_toNat (ps : Byte) :
    (palIndexAfter ps).toNat = if ps.getLsbD 7 then ps.toNat / 64 * 64 + (ps.toNat % 64 + 1) % 64 else ps.toNat := by
  unfold palIndexAfter
  split
  · rw [BitVec.toNat_append, BitVec.toNat_add, BitVec.extractLsb'_toNat, BitVec.extractLsb'_toNat,
      ← Nat.shiftLeft_add_eq_or_of_lt (Nat.mod_lt _ (by decide)), Nat.shiftRight_eq_div_pow, Nat.shiftLeft_eq]
    have := ps.isLt
    simp
    omega
  · rfl

/-- The write to `KEY1` keeps the speed bit (R110). -/
theorem getLsbD_key1Write (old v : Byte) {k : Nat} (hk : k < 8) :
    (old.extractLsb' 7 1 ++ v.extractLsb' 0 7).getLsbD k = if k = 7 then old.getLsbD 7 else v.getLsbD k := by
  rw [getLsbD_upper_append _ _ rfl hk]
  split
  · next h => simp [h, Nat.ne_of_lt h]
  · next h =>
    have h7 : k = 7 := by omega
    rw [if_pos h7, h7]

theorem sbWrite_eq (v : Byte) (s : State) :
    sbWrite v s = { s with
      mem := { s.mem with io := Memory.put s.mem.io 0x01 v }
      host := { s.host with
        serialOut := if s.setup.serialSink then s.host.serialOut ++ [v] else s.host.serialOut } } := by
  have hsetup : (setIo 0x01 v s).setup = s.setup := rfl
  rw [sbWrite, hsetup]
  split <;> rfl

/-- Settles O39: the writes by the rows of R101. -/
theorem ioWritesHaveTheirSideEffects : Obligations.IoWritesHaveTheirSideEffects := by
  intro s v
  refine ⟨writeByte_io s (n := 0x00) (by decide) v, ?_, writeByte_io s (n := 0x04) (by decide) v,
    writeByte_io s (n := 0x44) (by decide) v, writeByte_io s (n := 0x50) (by decide) v, ?_, fun n hn h hcgb => ?_,
    fun hcgb => ⟨⟨_, fun j hj => getLsbD_key1Write (key1 s) v hj, ?_⟩, ⟨_, palIndexAfter_toNat (bcps s), ?_⟩,
      ⟨_, palIndexAfter_toNat (ocps s), ?_⟩, fun hc t ht => ?_, fun hc t ht => ?_⟩⟩
  · exact (writeByte_io s (n := 0x01) (by decide) v).trans (congrArg (Res.ok ()) (sbWrite_eq v s))
  · rw [writeByte, locate_ie]
    rfl
  · exact (writeByte_io s hn v).trans (ioWrite_plain h hcgb v)
  · exact (writeByte_io s (n := 0x4D) (by decide) v).trans (ioWrite_cgb hcgb (by decide) v)
  · exact (writeByte_io s (n := 0x69) (by decide) v).trans (ioWrite_cgb hcgb (by decide) v)
  · exact (writeByte_io s (n := 0x6B) (by decide) v).trans (ioWrite_cgb hcgb (by decide) v)
  · obtain ⟨-, -, -, -, hw, -⟩ := (Mems.canonical_iff s.mem).mp hc
    have hstore := (writeByte_io s (n := 0x4F) (by decide) v).trans (ioWrite_plain (by decide) (fun _ => by decide) v)
    obtain rfl : setIo 0x4F v s = t := by
      injection hstore.symm.trans ht
    have hcgb' : isCgb (setIo 0x4F v s) = true := hcgb
    rw [vramBank, hcgb', io_setIo hw, if_pos rfl, Bool.true_and, BitVec.getLsbD, Nat.testBit_zero]
    simp only [decide_eq_true_eq]
    split <;> omega
  · obtain ⟨-, -, -, -, hw, -⟩ := (Mems.canonical_iff s.mem).mp hc
    have hstore := (writeByte_io s (n := 0x70) (by decide) v).trans (ioWrite_plain (by decide) (fun _ => by decide) v)
    obtain rfl : setIo 0x70 v s = t := by
      injection hstore.symm.trans ht
    have hcgb' : isCgb (setIo 0x70 v s) = true := hcgb
    rw [wramBank, hcgb', io_setIo hw, if_pos rfl, Bool.true_and]
    simp only [bne_iff_ne, ne_eq, ite_not]

/-! ### The bank controller (R87 to R92) -/

section
variable {s : State} {addr : Word} {v : Byte}

theorem bankWrite_enable (h : addr.toNat < 0x2000) (hctrl : s.setup.cart.ctrl ≠ .none) :
    bankWrite addr v s = { s with ctl := { s.ctl with eramEnabled := v.extractLsb' 0 4 == 0xA#4 } } := by
  have hregion : bankRegion addr = .enable := if_pos h
  simp only [bankWrite, hregion]
  rw [if_neg hctrl]

theorem bankWrite_low (h : 0x2000 ≤ addr.toNat) (h' : addr.toNat < 0x4000) :
    bankWrite addr v s = { s with
      ctl := { s.ctl with bankLo := bankLoAfter s.setup.cart.ctrl addr v s.ctl.bankLo } } := by
  have hregion : bankRegion addr = .low := by rw [bankRegion, if_neg (by omega), if_pos h']
  simp only [bankWrite, hregion]

theorem bankWrite_second (h : 0x4000 ≤ addr.toNat) (h' : addr.toNat < 0x6000) :
    bankWrite addr v s = { s with ctl := { s.ctl with bankHi := bankHiAfter s.setup.cart.ctrl v s.ctl.bankHi } } := by
  have hregion : bankRegion addr = .second := by rw [bankRegion, if_neg (by omega), if_neg (by omega), if_pos h']
  simp only [bankWrite, hregion]

theorem bankWrite_mode (h : 0x6000 ≤ addr.toNat) :
    bankWrite addr v s =
      if s.setup.cart.ctrl = .a then { s with ctl := { s.ctl with bankMode := v.getLsbD 0 } } else s := by
  have hregion : bankRegion addr = .mode := by
    rw [bankRegion, if_neg (by omega), if_neg (by omega), if_neg (by omega)]
  simp only [bankWrite, hregion]

theorem bankWrite_none (hctrl : s.setup.cart.ctrl = .none) : bankWrite addr v s = s := by
  simp only [bankWrite, hctrl]
  split <;> rfl

end

theorem lowNibble_beq (v : Byte) : (v.extractLsb' 0 4 == 0xA#4) = (v.toNat % 16 == 10) := by
  rw [Bool.eq_iff_iff, beq_iff_eq, beq_iff_eq, ← BitVec.toNat_inj, BitVec.extractLsb'_toNat, Nat.shiftRight_zero]
  rfl

theorem lowBit_beq (v : Byte) : v.getLsbD 0 = (v.toNat % 2 == 1) := by
  rw [BitVec.getLsbD, Nat.testBit_zero, Bool.eq_iff_iff, decide_eq_true_iff, beq_iff_eq]

/-- The low register that each controller keeps of a write (R89 to R91). -/
theorem bankLoAfter_toNat (addr : Word) (v : Byte) (old : BitVec 9) :
    (bankLoAfter .a addr v old).toNat = v.toNat % 32 ∧ (bankLoAfter .b addr v old).toNat = v.toNat % 128 ∧
      (addr.toNat < 0x3000 → (bankLoAfter .c addr v old).toNat = old.toNat / 256 * 256 + v.toNat) ∧
      (0x3000 ≤ addr.toNat → (bankLoAfter .c addr v old).toNat = v.toNat % 2 * 256 + old.toNat % 256) := by
  have hold := old.isLt
  refine ⟨?_, ?_, fun h => ?_, fun h => ?_⟩
  · simp only [bankLoAfter, BitVec.toNat_setWidth, BitVec.extractLsb'_toNat, Nat.shiftRight_zero]
    omega
  · simp only [bankLoAfter, BitVec.toNat_setWidth, BitVec.extractLsb'_toNat, Nat.shiftRight_zero]
    omega
  · simp only [bankLoAfter]
    rw [if_pos h, BitVec.toNat_append, ← Nat.shiftLeft_add_eq_or_of_lt v.isLt, Nat.shiftLeft_eq,
      BitVec.extractLsb'_toNat, Nat.shiftRight_eq_div_pow]
    omega
  · simp only [bankLoAfter]
    rw [if_neg (by omega), BitVec.toNat_append, ← Nat.shiftLeft_add_eq_or_of_lt (BitVec.isLt _), Nat.shiftLeft_eq,
      BitVec.extractLsb'_toNat, BitVec.extractLsb'_toNat, Nat.shiftRight_zero, Nat.shiftRight_zero]

theorem bankHiAfter_toNat (v : Byte) (old : BitVec 4) :
    (bankHiAfter .a v old).toNat = v.toNat % 4 ∧ (bankHiAfter .b v old).toNat = v.toNat % 4 ∧
      (bankHiAfter .c v old).toNat = v.toNat % 16 := by
  refine ⟨?_, ?_, ?_⟩ <;>
    simp only [bankHiAfter, BitVec.toNat_setWidth, BitVec.extractLsb'_toNat, Nat.shiftRight_zero] <;> omega

/-- The bank number of controller A in mode 0 (R89). -/
theorem shiftLeft_or_eq {hi lo : Nat} (h : lo < 32) : hi <<< 5 ||| lo = hi * 32 + lo := by
  rw [← Nat.shiftLeft_add_eq_or_of_lt (show lo < 2 ^ 5 from h), Nat.shiftLeft_eq]

/-- The numbers of banks that R9 admits. -/
theorem cart_wf_sizes {c : Cart} (h : c.wf = true) : 2 ≤ c.romBanks ∧ (c.ramBytes = 2048 ∨ c.ramBytes % 8192 = 0) := by
  simp only [Cart.wf, Bool.and_eq_true, Bool.or_eq_true, decide_eq_true_eq, beq_iff_eq] at h
  obtain ⟨⟨⟨⟨hrom, -⟩, -⟩, hram⟩, -⟩ := h
  exact ⟨hrom, hram⟩

/-- Settles O37: the writes by their regions, the indices by the controllers. -/
theorem bankRegistersSelectNormalisedBanks : Obligations.BankRegistersSelectNormalisedBanks := by
  intro s addr v
  refine ⟨fun hctrl h => ?_, fun hctrl h => ?_, fun h h' => ⟨bankLoAfter s.setup.cart.ctrl addr v s.ctl.bankLo, ?_, ?_⟩,
    fun h h' => ⟨bankHiAfter s.setup.cart.ctrl v s.ctl.bankHi, ?_, ?_⟩, fun h h' => ⟨fun hctrl => ?_, fun hctrl => ?_⟩,
    ⟨(composedBanks s).1, (composedBanks s).2, ?_, ?_, ?_, ?_, rfl, rfl⟩, fun hwf => ?_⟩
  · rw [writeByte_below h, bankWrite_none hctrl]
  · rw [writeByte_below (by omega), bankWrite_enable h hctrl, lowNibble_beq]
  · rw [writeByte_below (by omega), bankWrite_low h h']
  · obtain ⟨ha, hb, hc, hc'⟩ := bankLoAfter_toNat addr v s.ctl.bankLo
    exact ⟨fun hctrl => hctrl ▸ ha, fun hctrl => hctrl ▸ hb, fun hctrl => hctrl ▸ hc, fun hctrl => hctrl ▸ hc'⟩
  · rw [writeByte_below (by omega), bankWrite_second h h']
  · obtain ⟨ha, hb, hc⟩ := bankHiAfter_toNat v s.ctl.bankHi
    exact ⟨fun hctrl => hctrl.elim (fun hctrl => hctrl ▸ ha) fun hctrl => hctrl ▸ hb, fun hctrl => hctrl ▸ hc⟩
  · rw [writeByte_below h', bankWrite_mode h, if_pos hctrl, lowBit_beq]
  · rw [writeByte_below h', bankWrite_mode h, if_neg hctrl]
  · intro hctrl
    simp [composedBanks, hctrl]
  · intro hctrl hlo hmode
    simp [composedBanks, hctrl, hmode, shiftLeft_or_eq hlo]
  · intro hctrl hmode
    simp [composedBanks, hctrl, hmode]
  · rintro (hctrl | hctrl) <;> simp [composedBanks, hctrl]
  · obtain ⟨hrom, hram⟩ := cart_wf_sizes hwf
    have hbank : ramBank s < ramBanks s.setup.cart := Nat.mod_lt _ (by rw [ramBanks]; omega)
    rw [ramBanks] at hbank
    exact ⟨Nat.mod_lt _ (by omega), by omega⟩

/-- What a step keeps of the configuration: it is that of `s`, and an overlay that is off stays off. -/
def ConfigurationOf (s t : State) : Prop := t.setup = s.setup ∧ (t.ctl.bootActive = true → s.ctl.bootActive = true)

theorem writeByte_bootActive {s t : State} {addr : Word} {v : Byte} (h : writeByte s addr v = .ok () t)
    (hon : t.ctl.bootActive = true) : s.ctl.bootActive = true := by
  rcases writeByte_cases h with ⟨-, rfl⟩ | ⟨_, -, rfl⟩ | ⟨_, -, rfl⟩ | ⟨_, -, rfl⟩ | ⟨_, -, rfl⟩ | ⟨_, -, h⟩ |
    ⟨_, -, rfl⟩ | ⟨-, rfl⟩
  case inl => rwa [(bankWrite_ctl addr v s).1] at hon
  case inr.inr.inr.inr.inr.inl =>
    rcases ioWrite_cases h with ⟨-, rfl⟩ | ⟨-, rfl⟩ | ⟨-, rfl⟩ | ⟨-, rfl⟩ | ⟨-, rfl⟩ | ⟨-, rfl⟩ | ⟨-, rfl⟩ | ⟨-, h⟩ |
      ⟨-, rfl⟩ | ⟨-, -, rfl⟩ | ⟨-, -, h⟩ | ⟨-, -, rfl⟩ | ⟨-, -, rfl⟩ | ⟨-, -, -, -, -, -, -, -, -, -, rfl⟩
    case inr.inl => rwa [sbWrite_eq] at hon
    case inr.inr.inr.inl => rwa [lcdcWrite_frame] at hon
    case inr.inr.inr.inr.inr.inr.inl => rwa [lycWrite, coincidenceCheck_frame] at hon
    case inr.inr.inr.inr.inr.inr.inr.inl => rwa [dmaWrite_frame h] at hon
    case inr.inr.inr.inr.inr.inr.inr.inr.inl => cases hon
    case inr.inr.inr.inr.inr.inr.inr.inr.inr.inr.inl => rwa [hdma5Write_frame h] at hon
    all_goals exact hon
  all_goals exact hon

theorem configurationOf_step (s : State) : KeptByStep (ConfigurationOf s) where
  cpu u t h hu := by
    rw [h]
    exact hu
  write u a v t h hu := ⟨(writeByte_frame h).1.trans hu.1, fun hon => hu.2 (writeByte_bootActive h hon)⟩
  io _ _ _ _ hu := hu
  host _ _ hu := hu
  ppu c u t h hu := by
    rw [ppuAdvance_frame h]
    exact hu
  timer c u hu := by
    rw [timerAdvance_frame]
    exact hu
  sched _ _ hu := hu
  dirty _ _ hu := hu

/-- Settles O36: no part of a step touches the configuration, and the one write that touches the overlay's bit clears
it. -/
theorem nothingChangesTheCartridgeImage : Obligations.NothingChangesTheCartridgeImage := by
  refine ⟨fun s t h => (configurationOf_step s).machineStep h ⟨rfl, id⟩, fun s addr v h =>
    ⟨bankWrite addr v s, writeByte_below h v, ?_⟩⟩
  obtain ⟨hboot, hjoy, hdirty⟩ := bankWrite_ctl addr v s
  refine (bankWrite_frame addr v s).trans ?_
  dsimp only
  rw [← hboot, ← hjoy, ← hdirty]

end Sys2Proof.Claims
end

section
/-! PROOFS. The Timer (60_exceptions.md, R380 to R383): the divider, the main counter, and the accumulators along a
step. -/

namespace Sys2Proof.Machine

theorem io_setIo_same {s : State} (hw : s.mem.io.wf = true) (n : Nat) (v : Byte) : io (setIo n v s) n = v := by
  rw [io_setIo hw, if_pos rfl]

/-! ### The divider (R382) -/

theorem divAdvance_reset {s : State} (h : s.timer.divReset = true) (c : Nat) :
    divAdvance c s = setIo 0x04 0 (setDivAcc 0 (setDivReset false s)) := if_pos h

theorem divAdvance_count {s : State} (h : s.timer.divReset = false) (c : Nat) :
    divAdvance c s = setIo 0x04 (divReg s + BitVec.ofNat 8 ((s.timer.divAcc + c) / divPeriod s))
      (setDivAcc ((s.timer.divAcc + c) % divPeriod s) s) := if_neg (by simp [h])

theorem divAdvance_frame (c : Nat) (s : State) :
    divAdvance c s = { s with
      mem := { s.mem with io := (divAdvance c s).mem.io }
      timer := { s.timer with
        divAcc := (divAdvance c s).timer.divAcc, divReset := (divAdvance c s).timer.divReset } } := by
  unfold divAdvance
  split <;> rfl

/-- A counter of eight bits over an accumulator counts modulo 256 periods (R382). -/
theorem counter_mod (period counter acc : Nat) :
    ((counter + acc / period) % 256 * period + acc % period) % (256 * period) =
      (counter * period + acc) % (256 * period) := by
  have hacc := Nat.div_add_mod acc period
  have hmul : (counter + acc / period) % 256 * period = (counter + acc / period) * period % (256 * period) :=
    (Nat.mul_mod_mul_right _ _ _).symm
  rw [hmul, Nat.mod_add_mod, Nat.add_mul]
  congr 1
  rw [Nat.mul_comm] at hacc
  omega

/-! ### The main counter (R383) -/

theorem timaSelect_same {s : State} (h : (tacReg s).extractLsb' 0 2 = s.timer.timaSel) : timaSelect s = s := if_pos h

theorem timaSelect_change {s : State} (h : (tacReg s).extractLsb' 0 2 ≠ s.timer.timaSel) :
    timaSelect s = { s with timer := { s.timer with timaSel := (tacReg s).extractLsb' 0 2, timaAcc := 0 } } := if_neg h

theorem timaSelect_selected (s : State) : (tacReg (timaSelect s)).extractLsb' 0 2 = (timaSelect s).timer.timaSel := by
  by_cases h : (tacReg s).extractLsb' 0 2 = s.timer.timaSel
  · rw [timaSelect_same h, h]
  · rw [timaSelect_change h]
    rfl

/-- Selecting twice is selecting once. -/
theorem timaSelect_idem (s : State) : timaSelect (timaSelect s) = timaSelect s := timaSelect_same (timaSelect_selected s)

theorem timaAdvance_select (c : Nat) (s : State) : timaAdvance c (timaSelect s) = timaAdvance c s := by
  unfold timaAdvance
  rw [timaSelect_idem]

section
variable {s : State} (hsel : (tacReg s).extractLsb' 0 2 = s.timer.timaSel)
include hsel

theorem timaAdvance_disabled (hoff : (tacReg s).getLsbD 2 = false) (c : Nat) : timaAdvance c s = s := by
  unfold timaAdvance
  rw [timaSelect_same hsel]
  exact if_neg (Bool.eq_false_iff.mp hoff)

theorem timaAdvance_enabled (hon : (tacReg s).getLsbD 2 = true) (c : Nat) :
    timaAdvance c s = timaTicks ((s.timer.timaAcc + c) / timaPeriod s s.timer.timaSel)
      (setTimaAcc ((s.timer.timaAcc + c) % timaPeriod s s.timer.timaSel) s) := by
  unfold timaAdvance
  rw [timaSelect_same hsel]
  exact if_pos hon

end

theorem timaTicks_add (m n : Nat) (s : State) : timaTicks (m + n) s = timaTicks n (timaTicks m s) := by
  induction m generalizing s with
  | zero => rw [Nat.zero_add]; rfl
  | succ m ih => rw [Nat.succ_add]; exact ih (timaTick s)

/-- A tick does not look at the accumulator. -/
theorem timaTick_setTimaAcc (n : Nat) (s : State) : timaTick (setTimaAcc n s) = setTimaAcc n (timaTick s) := by
  unfold timaTick
  have hreg : timaReg (setTimaAcc n s) = timaReg s := rfl
  rw [hreg]
  split <;> rfl

theorem timaTicks_setTimaAcc (m n : Nat) (s : State) : timaTicks m (setTimaAcc n s) = setTimaAcc n (timaTicks m s) := by
  induction m generalizing s with
  | zero => rfl
  | succ m ih => rw [timaTicks, timaTick_setTimaAcc, ih]; rfl

/-- The periods that R8 admits are not zero. -/
theorem timaPeriod_pos {s : State} (h : s.setup.periods.wf = true) (sel : BitVec 2) : 0 < timaPeriod s sel := by
  simp only [Periods.wf, Bool.and_eq_true, decide_eq_true_eq] at h
  obtain ⟨⟨⟨⟨-, h0⟩, h1⟩, h2⟩, h3⟩ := h
  unfold timaPeriod
  split <;> assumption

theorem divPeriod_pos {s : State} (h : s.setup.periods.wf = true) : 0 < divPeriod s := by
  simp only [Periods.wf, Bool.and_eq_true, decide_eq_true_eq] at h
  obtain ⟨⟨⟨⟨hdiv, -⟩, -⟩, -⟩, -⟩ := h
  exact hdiv

end Sys2Proof.Machine

namespace Sys2Proof.Claims

open Sys2Proof.Machine

/-- Settles O49: the accumulator keeps the remainder, `DIV` takes the quotient. -/
theorem dividerCountsEveryCycle : Obligations.DividerCountsEveryCycle := by
  intro s c hc hp
  obtain ⟨-, -, -, -, hw, -⟩ := (Mems.canonical_iff s.mem).mp hc
  refine ⟨fun h => ?_, fun h => ?_, (ioStep_divAdvance hw c).2, divAdvance_frame c s⟩
  · rw [divAdvance_count h]
    refine ⟨Nat.mod_lt _ hp, ?_⟩
    have hreg (v : Byte) (n : Nat) : divReg (setIo 0x04 v (setDivAcc n s)) = v := by
      exact io_setIo_same (s := setDivAcc n s) hw 0x04 v
    rw [hreg, BitVec.toNat_add, BitVec.toNat_ofNat, Nat.add_mod_mod, Nat.add_assoc]
    exact counter_mod _ _ _
  · rw [divAdvance_reset h]
    exact ⟨rfl, io_setIo_same (s := setDivAcc 0 (setDivReset false s)) hw 0x04 0, rfl⟩

theorem timaPeriod_eq_periodOf (s : State) (sel : BitVec 2) : timaPeriod s sel = periodOf s sel := by
  have hcases : sel = 0 ∨ sel = 1 ∨ sel = 2 ∨ sel = 3 := by
    revert sel
    decide
  rcases hcases with rfl | rfl | rfl | rfl <;> rfl

/-- `TAC` and its selection are kept by ticks. -/
theorem tacReg_timaTicks {s : State} (hw : s.mem.io.wf = true) (n : Nat) : tacReg (timaTicks n s) = tacReg s :=
  (ioStep_timaTicks hw n).io_eq (by decide)

theorem timaTicks_timer (n : Nat) (s : State) : (timaTicks n s).timer = s.timer := by rw [timaTicks_frame]

theorem timaTicks_setup (n : Nat) (s : State) : (timaTicks n s).setup = s.setup := by rw [timaTicks_frame]

/-- Two advances with nothing between them are one of their sum (R383). -/
theorem timaAdvance_add {s : State} (hw : s.mem.io.wf = true) (hp : s.setup.periods.wf = true)
    (hsel : (tacReg s).extractLsb' 0 2 = s.timer.timaSel) (hon : (tacReg s).getLsbD 2 = true) (c d : Nat) :
    timaAdvance d (timaAdvance c s) = timaAdvance (c + d) s := by
  have hpos := timaPeriod_pos hp s.timer.timaSel
  rw [timaAdvance_enabled hsel hon c, timaAdvance_enabled hsel hon (c + d)]
  generalize hperiod : timaPeriod s s.timer.timaSel = period at hpos ⊢
  generalize hacc : s.timer.timaAcc + c = acc
  have hadd : s.timer.timaAcc + (c + d) = acc + d := by omega
  generalize hu : timaTicks (acc / period) (setTimaAcc (acc % period) s) = u
  have hset : u = setTimaAcc (acc % period) (timaTicks (acc / period) s) := by rw [← hu, timaTicks_setTimaAcc]
  have htac : tacReg u = tacReg s := by
    rw [hset]
    exact tacReg_timaTicks hw _
  have htimer : u.timer = { s.timer with timaAcc := acc % period } := by
    rw [← hu, timaTicks_timer]
    rfl
  have hperiod' : timaPeriod u u.timer.timaSel = period := by
    have hsetup : u.setup = s.setup := by
      rw [← hu, timaTicks_setup]
      rfl
    rw [← hperiod, htimer, timaPeriod_eq_periodOf, timaPeriod_eq_periodOf, periodOf, hsetup]
    rfl
  rw [timaAdvance_enabled (by rw [htac, htimer, hsel]) (by rw [htac, hon]) d, hperiod', htimer, hadd]
  dsimp only
  have hdiv : (acc + d) / period = acc / period + (acc % period + d) / period := by
    conv_lhs => rw [← Nat.div_add_mod acc period, Nat.add_assoc, Nat.mul_add_div hpos]
  have hmod : (acc + d) % period = (acc % period + d) % period := by rw [Nat.mod_add_mod]
  rw [hset, hdiv, timaTicks_add, hmod]
  simp only [timaTicks_setTimaAcc]
  rfl

/-- One period (R383): the accumulator keeps what is over, and the counter ticks once. -/
theorem timaAdvance_one {s : State} (hsel : (tacReg s).extractLsb' 0 2 = s.timer.timaSel)
    (hon : (tacReg s).getLsbD 2 = true) {c : Nat} (h : timaPeriod s s.timer.timaSel ≤ s.timer.timaAcc + c)
    (h' : s.timer.timaAcc + c < 2 * timaPeriod s s.timer.timaSel) :
    timaAdvance c s = timaTick (setTimaAcc (s.timer.timaAcc + c - timaPeriod s s.timer.timaSel) s) := by
  rw [timaAdvance_enabled hsel hon c]
  have hone : (s.timer.timaAcc + c) / timaPeriod s s.timer.timaSel = 1 :=
    Nat.div_eq_of_lt_le (by omega) (by omega)
  have hrest : (s.timer.timaAcc + c) % timaPeriod s s.timer.timaSel =
      s.timer.timaAcc + c - timaPeriod s s.timer.timaSel := by
    rw [Nat.mod_eq_sub_mod h, Nat.mod_eq_of_lt (by omega)]
  rw [hone, hrest]
  rfl

/-- Settles O50: the advance by its equations, a tick by its two cases. -/
theorem mainCounterFollowsItsPeriod : Obligations.MainCounterFollowsItsPeriod := by
  intro s c hc hp
  obtain ⟨-, -, -, -, hw, -⟩ := (Mems.canonical_iff s.mem).mp hc
  refine ⟨fun h => ?_, fun hsel => ⟨fun hoff => timaAdvance_disabled hsel hoff c, fun hon h => ?_, fun hon h h' => ?_,
    fun hon d => timaAdvance_add hw hp hsel hon c d⟩⟩
  · rw [← timaSelect_change h, timaAdvance_select]
  · rw [← timaPeriod_eq_periodOf] at h
    rw [timaAdvance_enabled hsel hon, Nat.div_eq_of_lt h, Nat.mod_eq_of_lt h]
    rfl
  · rw [← timaPeriod_eq_periodOf] at h h' ⊢
    rw [timaAdvance_one hsel hon h h']
    generalize s.timer.timaAcc + c - timaPeriod s s.timer.timaSel = n
    have hwn : (setTimaAcc n s).mem.io.wf = true := hw
    refine ⟨(timaTicks_timer 1 (setTimaAcc n s)).trans rfl, fun hff => ?_, fun hff => ?_⟩
    · have htick : timaTick (setTimaAcc n s) = request 2 (setIo 0x05 (tmaReg s) (setTimaAcc n s)) := if_pos hff
      have h1 := ioStep_setIo hwn 0x05 (tmaReg s)
      have h2 := ioStep_request h1.1 2
      rw [htick]
      refine ⟨(h2.io_eq (n := 0x05) (by decide)).trans ?_, ?_, (h1.trans h2).2⟩
      · rw [io_setIo hwn, if_pos rfl]
      · rw [ifReg_request h1.1, show ifReg (setIo 0x05 (tmaReg s) (setTimaAcc n s)) = ifReg s from
          h1.io_eq (n := 0x0F) (by decide)]
        exact bitAdded_or 2 _
    · have htick : timaTick (setTimaAcc n s) = setIo 0x05 (timaReg s + 1) (setTimaAcc n s) := if_neg hff
      have h1 := ioStep_setIo hwn 0x05 (timaReg s + 1)
      rw [htick]
      refine ⟨?_, h1.2⟩
      rw [show timaReg (setIo 0x05 (timaReg s + 1) (setTimaAcc n s)) = timaReg s + 1 by
        rw [timaReg, io_setIo hwn, if_pos rfl]]
      bv_omega

end Sys2Proof.Claims
end

section
/-! PROOFS. The two copies that run inside a write or a step (R106, R451 to R453): the OAM DMA and the H-blank DMA, byte
by byte. -/

namespace Sys2Proof.Machine

theorem readByte_eq_none {s : State} {addr : Word} : readByte s addr = none ↔ locate s addr = .nothing := readLoc_eq_none

end Sys2Proof.Machine

namespace Sys2Proof.Claims

open Sys2Proof.Machine

/-! ### The OAM DMA (R106) -/

/-- The state `u` of an OAM DMA that began in `s` with its first `n` bytes copied. -/
def OamCopied (s : State) (src : Word) (n : Nat) (u : State) : Prop :=
  u = { s with mem := { s.mem with oam := u.mem.oam } } ∧ u.mem.oam.wf = true ∧
    (∀ i, i < n → some (Memory.get u.mem.oam i) = readByte s (src + BitVec.ofNat 16 i)) ∧
    ∀ i, n ≤ i → Memory.get u.mem.oam i = Memory.get s.mem.oam i

theorem OamCopied.start {s : State} (hw : s.mem.oam.wf = true) (src : Word) : OamCopied s src 0 s :=
  ⟨rfl, hw, fun _ h => absurd h (Nat.not_lt_zero _), fun _ _ => rfl⟩

/-- The copy reads every byte as the state it began in: a source inside OAM is the copy's own place. -/
theorem OamCopied.readByte_eq {s u : State} {src : Word} {n : Nat} (h : OamCopied s src n u) (hsrc : src.toNat % 256 = 0)
    (hn : n < 160) : readByte u (src + BitVec.ofNat 16 n) = readByte s (src + BitVec.ofNat 16 n) := by
  obtain ⟨hu, -, -, hrest⟩ := h
  have hloc : locate u (src + BitVec.ofNat 16 n) = locate s (src + BitVec.ofNat 16 n) := by
    rw [hu]
    rfl
  have haddr : (src + BitVec.ofNat 16 n).toNat = src.toNat + n := by
    rw [BitVec.toNat_add, BitVec.toNat_ofNat]
    omega
  unfold readByte
  rw [hloc]
  rcases hplace : locate s (src + BitVec.ofNat 16 n)
  case oam off =>
    have hoff := locate_eq_oam hplace
    exact congrArg some (hrest off (by omega))
  all_goals
    rw [hu]
    rfl

theorem OamCopied.setOam {s u : State} {src : Word} {n : Nat} (h : OamCopied s src n u) {b : Byte}
    (hb : readByte s (src + BitVec.ofNat 16 n) = some b) : OamCopied s src (n + 1) (setOam n b u) := by
  obtain ⟨hu, hw, hdone, hrest⟩ := h
  refine ⟨?_, Memory.put_wf hw n b, fun i hi => ?_, fun i hi => ?_⟩
  · rw [Machine.setOam, hu]
  · rw [setOam_mem_oam, Memory.get_put hw]
    split
    · next h => rw [h, hb]
    · exact hdone i (by omega)
  · rw [setOam_mem_oam, Memory.get_put hw, if_neg (by omega)]
    exact hrest i (by omega)

/-- While the source can be read the copy goes on. -/
theorem oamCopy_progress {s : State} {src : Word} (hsrc : src.toNat % 256 = 0) (m : Nat) {k : Nat}
    (hk : ∀ i, i < k → readByte s (src + BitVec.ofNat 16 i) ≠ none) (hlen : k ≤ 160) (hw : s.mem.oam.wf = true) :
    ∃ u, oamCopy src (k + m) 0 s = oamCopy src m k u ∧ OamCopied s src k u := by
  induction k generalizing m with
  | zero => exact ⟨s, by rw [Nat.zero_add], .start hw src⟩
  | succ k ih =>
    obtain ⟨u, hu, hcopied⟩ := ih (m + 1) (fun i hi => hk i (by omega)) (by omega)
    obtain ⟨b, hb⟩ := Option.ne_none_iff_exists'.mp (hk k (by omega))
    refine ⟨setOam k b u, ?_, hcopied.setOam hb⟩
    rw [show k + 1 + m = k + (m + 1) by omega, hu, oamCopy]
    simp only [hcopied.readByte_eq hsrc (by omega), hb]

/-- Settles O41: the copy goes on while the source can be read, and reads it as it was at the start. -/
theorem oamDmaCopiesFromTheSource : Obligations.OamDmaCopiesFromTheSource := by
  intro s v hc
  obtain ⟨-, -, -, hoam, hio, -⟩ := (Mems.canonical_iff s.mem).mp hc
  have hsrc : (v ++ 0#8 : Word).toNat % 256 = 0 := by
    rw [append_toNat]
    simp
  have haddr (i : Nat) : BitVec.ofNat 16 (v.toNat * 256 + i) = (v ++ 0#8 : Word) + BitVec.ofNat 16 i := by
    apply BitVec.eq_of_toNat_eq
    rw [BitVec.toNat_add, append_toNat, BitVec.toNat_ofNat, BitVec.toNat_ofNat]
    simp
  have hstart : writeByte s 0xFF46 v = oamCopy (v ++ 0#8) 160 0 (setIo 0x46 v s) :=
    writeByte_io s (n := 0x46) (by decide) v
  have hw : (setIo 0x46 v s).mem.oam.wf = true := hoam
  refine ⟨setIo 0x46 v s, rfl, fun hall => ?_, fun j hj hbefore hbad => ?_⟩
  · simp only [haddr] at hall ⊢
    obtain ⟨t, ht, hframe, -, hdone, hrest⟩ := oamCopy_progress hsrc 0 hall (Nat.le_refl 160) hw
    refine ⟨t, hstart.trans ht, ?_, ?_, hdone, fun i hi => (hrest i hi).trans rfl, hframe⟩
    · rw [hframe]
      exact io_setIo_same hio 0x46 v
    · rw [hframe]
      exact (ioStep_setIo hio 0x46 v).2
  · simp only [haddr] at hbefore hbad ⊢
    obtain ⟨t, ht, hcopied⟩ := oamCopy_progress hsrc (160 - j) hbefore (by omega) hw
    refine ⟨t, ?_, hcopied.2.2.1, fun i hi => (hcopied.2.2.2 i hi).trans rfl, hcopied.1⟩
    rw [hstart, show 160 = j + (160 - j) by omega, ht]
    obtain ⟨m, hm⟩ : ∃ m, 160 - j = m + 1 := ⟨159 - j, by omega⟩
    rw [hm, oamCopy]
    simp only [hcopied.readByte_eq hsrc hj, hbad]

/-! ### The H-blank DMA (R451) -/

/-- The engine's byte `i` goes to its own place while no more than a bank is copied. -/
theorem copyPlace_inj {s : State} {dst : Word} {i j : Nat} (hi : i < 0x2000) (hj : j < 0x2000)
    (h : copyPlace s dst i = copyPlace s dst j) : i = j := by
  simp only [copyPlace] at h
  omega

/-- The state `u` of a transfer that began in `s` with its first `n` bytes copied: the I/O window reads as before, so
the engine's own register does. -/
def VramCopied (s : State) (src dst : Word) (n : Nat) (u : State) : Prop :=
  u = { s with mem := { s.mem with vram := u.mem.vram }, hdma := u.hdma } ∧ hdma5Byte u = hdma5Byte s ∧
    u.mem.vram.wf = true ∧ copied s u src dst n

theorem copied_zero (s : State) (src dst : Word) {u : State} (hu : u.mem.vram = s.mem.vram) : copied s u src dst 0 :=
  ⟨fun _ => 0, fun _ h => absurd h (Nat.not_lt_zero _), fun _ h => absurd h (Nat.not_lt_zero _),
    fun _ _ => by rw [hu], fun _ _ h => absurd h (Nat.not_lt_zero _)⟩

/-- Outside `0x8000–0x9FFF` a copied byte is what the state the copy began in reads (R451). -/
theorem copied_of_bytes {s u : State} {src dst : Word} {n : Nat} (b : Nat → Byte)
    (hb : ∀ i, i < n →
      (∀ j, j < i → locate s (src + BitVec.ofNat 16 i) = .vram (copyPlace s dst j) → b i = b j) ∧
      ((∀ j, j < i → locate s (src + BitVec.ofNat 16 i) ≠ .vram (copyPlace s dst j)) →
        readByte s (src + BitVec.ofNat 16 i) = some (b i)))
    (hput : ∀ i, i < n → Memory.get u.mem.vram (copyPlace s dst i) = b i)
    (hkept : ∀ off, (∀ i, i < n → off ≠ copyPlace s dst i) → Memory.get u.mem.vram off = Memory.get s.mem.vram off) :
    copied s u src dst n := by
  refine ⟨b, hb, hput, hkept, fun hout i hi => ?_⟩
  rw [hput i hi]
  refine (hb i hi).2 fun j _ hloc => ?_
  have hrange := locate_eq_vram hloc
  have hout := hout i hi
  omega

/-- A read during a transfer: a byte of video RAM as it stands, any other as the transfer began. -/
theorem VramCopied.readByte_eq {s u : State} {src dst : Word} {n : Nat} (h : VramCopied s src dst n u) (addr : Word) :
    readByte u addr = match locate s addr with
      | .vram off => some (Memory.get u.mem.vram off)
      | _ => readByte s addr := by
  obtain ⟨hu, h55, -, -⟩ := h
  have hloc : locate u addr = locate s addr := by
    rw [hu]
    rfl
  unfold readByte
  rw [hloc]
  rcases hplace : locate s addr
  case io n =>
    have hread : ioRead u n = ioRead s n := by
      unfold ioRead
      rw [h55, hu]
      rfl
    exact congrArg some hread
  case vram off => rfl
  all_goals
    rw [hu]
    rfl

theorem VramCopied.readable {s u : State} {src dst : Word} {n : Nat} (h : VramCopied s src dst n u) (addr : Word) :
    readByte u addr = none ↔ readByte s addr = none := by
  rw [h.readByte_eq addr]
  split
  · next off hoff => simp [readByte, hoff, readLoc]
  · rfl

/-- One byte more. -/
theorem VramCopied.setVram {s u : State} {src dst : Word} {n : Nat} (h : VramCopied s src dst n u) (hn : n < 0x2000)
    {v : Byte} (hv : readByte u (src + BitVec.ofNat 16 n) = some v) :
    VramCopied s src dst (n + 1) (setVram (copyPlace s dst n) v u) := by
  have hread := h.readByte_eq (src + BitVec.ofNat 16 n)
  rw [hv] at hread
  obtain ⟨hu, h55, hw, b, hb, hput, hkept, -⟩ := h
  refine ⟨?_, h55, Memory.put_wf hw _ _, ?_⟩
  · rw [Machine.setVram, hu]
  have hold (i : Nat) (hi : i < n) : Function.update b n v i = b i := Function.update_of_ne (Nat.ne_of_lt hi) _ _
  have hnew : Function.update b n v n = v := Function.update_self _ _ _
  refine copied_of_bytes (Function.update b n v) (fun i hi => ?_) (fun i hi => ?_) fun off hoff => ?_
  · rcases Nat.lt_succ_iff_lt_or_eq.mp hi with hi | rfl
    · obtain ⟨hself, hout⟩ := hb i hi
      rw [hold i hi]
      exact ⟨fun j hj hloc => (hself j hj hloc).trans (hold j (by omega)).symm, hout⟩
    · rw [hnew]
      refine ⟨fun j hj hloc => ?_, fun hout => ?_⟩
      · rw [hloc] at hread
        rw [hold j hj, ← hput j hj]
        exact Option.some.inj hread
      · split at hread
        · next off hoff =>
          rw [readByte, hoff, hread]
          exact congrArg some (hkept off fun j hj hj' => hout j hj (hj' ▸ hoff)).symm
        · exact hread.symm
  · rw [setVram_mem_vram, Memory.get_put hw]
    rcases Nat.lt_succ_iff_lt_or_eq.mp hi with hi | rfl
    · rw [if_neg fun he => absurd (copyPlace_inj (by omega) hn he) (Nat.ne_of_lt hi), hold i hi, hput i hi]
    · rw [if_pos rfl, hnew]
  · rw [setVram_mem_vram, Memory.get_put hw, if_neg (hoff n (Nat.lt_succ_self n))]
    exact hkept off fun i hi => hoff i (by omega)

/-! ### A chunk (R451) -/

theorem dstAfter_toNat (dst : Word) (n : Nat) : (dstAfter dst n).toNat = 0x8000 + (dst.toNat - 0x8000 + n) % 0x2000 := by
  rw [dstAfter, BitVec.toNat_ofNat]
  omega

/-- A place counted from the destination `m` bytes on. -/
theorem copyPlace_dstAfter {s u : State} (hu : vramBank u = vramBank s) (dst : Word) (m i : Nat) :
    vramBank u * 0x2000 + ((dstAfter dst m - 0x8000#16).toNat + i) % 0x2000 = copyPlace s dst (m + i) := by
  have hdst := dstAfter_toNat dst m
  have hoff : (dstAfter dst m - 0x8000#16).toNat = (dst.toNat - 0x8000 + m) % 0x2000 := by
    rw [BitVec.toNat_sub, hdst]
    simp only [BitVec.toNat_ofNat]
    omega
  rw [copyPlace, hu, hoff]
  omega

/-- The engine stands `m` bytes into a transfer from `src` to `dst`. -/
def EngineAt (src dst : Word) (m : Nat) (u : State) : Prop :=
  u.hdma.src = src + BitVec.ofNat 16 m ∧ u.hdma.dst = dstAfter dst m

theorem ofNat_add_word (src : Word) (m i : Nat) :
    src + BitVec.ofNat 16 m + BitVec.ofNat 16 i = src + BitVec.ofNat 16 (m + i) := by
  rw [BitVec.ofNat_add, BitVec.add_assoc]

/-- One byte of a chunk. -/
theorem chunkCopy_succ {s u : State} {src dst : Word} {m i : Nat} (hat : EngineAt src dst m u)
    (hu : vramBank u = vramBank s) {v : Byte} (hv : readByte u (src + BitVec.ofNat 16 (m + i)) = some v) (n : Nat) :
    chunkCopy (n + 1) i u = chunkCopy n (i + 1) (setVram (copyPlace s dst (m + i)) v u) := by
  obtain ⟨hsrc, hdst⟩ := hat
  rw [chunkCopy, hsrc, hdst, ofNat_add_word]
  simp only [hv, copyPlace_dstAfter hu]

theorem chunkCopy_unreadable {u : State} {src dst : Word} {m i : Nat} (hat : EngineAt src dst m u)
    (hv : readByte u (src + BitVec.ofNat 16 (m + i)) = none) (n : Nat) :
    chunkCopy (n + 1) i u = .fatal (src + BitVec.ofNat 16 (m + i)) u := by
  rw [chunkCopy, hat.1, ofNat_add_word]
  simp only [hv]

theorem VramCopied.vramBank_eq {s u : State} {src dst : Word} {n : Nat} (h : VramCopied s src dst n u) :
    vramBank u = vramBank s := by
  rw [h.1]
  rfl

/-- While the source can be read a chunk goes on, the engine's registers standing. -/
theorem chunkCopy_progress {s u : State} {src dst : Word} {m : Nat} (hat : EngineAt src dst m u)
    (hcopied : VramCopied s src dst m u) (n : Nat) {k : Nat}
    (hk : ∀ i, i < k → readByte s (src + BitVec.ofNat 16 (m + i)) ≠ none) (hlen : m + k ≤ 0x2000) :
    ∃ t, chunkCopy (k + n) 0 u = chunkCopy n k t ∧ VramCopied s src dst (m + k) t ∧ t.hdma = u.hdma := by
  induction k generalizing n with
  | zero => exact ⟨u, by rw [Nat.zero_add], hcopied, rfl⟩
  | succ k ih =>
    obtain ⟨t, ht, hvt, hengine⟩ := ih (n + 1) (fun i hi => hk i (by omega)) (by omega)
    have hread := mt (hvt.readable (src + BitVec.ofNat 16 (m + k))).mp (hk k (by omega))
    obtain ⟨v, hv⟩ := Option.ne_none_iff_exists'.mp hread
    have hat' : EngineAt src dst m t := by rwa [EngineAt, hengine]
    refine ⟨Machine.setVram (copyPlace s dst (m + k)) v t, ?_, hvt.setVram (by omega) hv, hengine⟩
    rw [show k + 1 + n = k + (n + 1) by omega, ht, chunkCopy_succ hat' hvt.vramBank_eq hv]

/-- The engine after `n` bytes of a transfer. -/
def hdmaAfter (src dst : Word) (len : Nat) (active : Bool) (n : Nat) : HdmaState :=
  { src := src + BitVec.ofNat 16 n, dst := dstAfter dst n, len := len - n, active := active }

theorem engineAt_hdmaAfter {u : State} {src dst : Word} {len n : Nat} {active : Bool}
    (h : u.hdma = hdmaAfter src dst len active n) : EngineAt src dst n u := by
  rw [EngineAt, h]
  exact ⟨rfl, rfl⟩

theorem chunkDone_hdma {t : State} {src dst : Word} {len m : Nat} {active : Bool}
    (h : t.hdma = hdmaAfter src dst len active m) :
    (chunkDone t).hdma = hdmaAfter src dst len active (m + 16) := by
  have hdst : 0x8000#16 + BitVec.ofNat 16 (((dstAfter dst m - 0x8000#16).toNat + 16) % 0x2000) =
      dstAfter dst (m + 16) := by
    apply BitVec.eq_of_toNat_eq
    have hm := dstAfter_toNat dst m
    rw [BitVec.toNat_add, BitVec.toNat_ofNat, dstAfter_toNat, BitVec.toNat_sub, hm]
    simp only [BitVec.toNat_ofNat]
    omega
  unfold chunkDone
  rw [h]
  simp only [hdmaAfter, hdst, HdmaState.mk.injEq, and_true, true_and]
  exact ⟨ofNat_add_word src m 16, by omega⟩

/-- What reading the engine's register gives does not change while a transfer is inactive. -/
theorem hdma5Byte_inactive {s : State} (h : s.hdma.active = false) : hdma5Byte s = 0xFF := if_neg (by simp [h])

/-- A whole chunk moves the engine's registers on. -/
theorem copyChunk_whole {s u : State} {src dst : Word} {m len : Nat} {active : Bool}
    (hhdma : u.hdma = hdmaAfter src dst len active m) (hcopied : VramCopied s src dst m u)
    (hk : ∀ i, i < 16 → readByte s (src + BitVec.ofNat 16 (m + i)) ≠ none) (hlen : m + 16 ≤ 0x2000) :
    ∃ t, copyChunk u = .ok () (chunkDone t) ∧ VramCopied s src dst (m + 16) t ∧
      (chunkDone t).hdma = hdmaAfter src dst len active (m + 16) := by
  obtain ⟨t, ht, hvt, hengine⟩ := chunkCopy_progress (engineAt_hdmaAfter hhdma) hcopied 0 hk hlen
  refine ⟨t, ?_, hvt, chunkDone_hdma (hengine.trans hhdma)⟩
  rw [copyChunk, show (16 : Nat) = 16 + 0 from rfl, ht]
  rfl

/-- A chunk ends at its first unreadable byte, the engine's registers standing. -/
theorem copyChunk_unreadable {s u : State} {src dst : Word} {m len : Nat} {active : Bool}
    (hhdma : u.hdma = hdmaAfter src dst len active m) (hcopied : VramCopied s src dst m u) {k : Nat} (hk16 : k < 16)
    (hk : ∀ i, i < k → readByte s (src + BitVec.ofNat 16 (m + i)) ≠ none) (hlen : m + k ≤ 0x2000)
    (hbad : readByte s (src + BitVec.ofNat 16 (m + k)) = none) :
    ∃ t, copyChunk u = .fatal (src + BitVec.ofNat 16 (m + k)) t ∧ VramCopied s src dst (m + k) t ∧ t.hdma = u.hdma := by
  obtain ⟨t, ht, hvt, hengine⟩ := chunkCopy_progress (engineAt_hdmaAfter hhdma) hcopied (16 - k) hk hlen
  refine ⟨t, ?_, hvt, hengine⟩
  obtain ⟨n, hn⟩ : ∃ n, 16 - k = n + 1 := ⟨15 - k, by omega⟩
  have hat : EngineAt src dst m t := engineAt_hdmaAfter (hengine.trans hhdma)
  rw [hn, chunkCopy_unreadable hat ((hvt.readable _).mpr hbad)] at ht
  rw [show k + (n + 1) = 16 by omega] at ht
  rw [copyChunk, ht]

/-! ### The H-blank step (R453) -/

theorem hdmaAfter_zero {s : State} (h : 0x8000 ≤ s.hdma.dst.toNat) (h' : s.hdma.dst.toNat < 0xA000) :
    s.hdma = hdmaAfter s.hdma.src s.hdma.dst s.hdma.len s.hdma.active 0 := by
  have hdst : dstAfter s.hdma.dst 0 = s.hdma.dst := BitVec.eq_of_toNat_eq (by rw [dstAfter_toNat]; omega)
  rw [hdmaAfter, hdst, Nat.sub_zero]
  simp

theorem VramCopied.start {s u : State} (hw : s.mem.vram.wf = true) (src dst : Word)
    (hu : u = { s with hdma := u.hdma }) (h55 : hdma5Byte u = hdma5Byte s) : VramCopied s src dst 0 u := by
  have hvram : u.mem.vram = s.mem.vram := by rw [hu]
  exact ⟨by rw [hvram]; exact hu, h55, hvram ▸ hw, copied_zero s src dst hvram⟩

/-- Settles O44: a chunk from the start, then the end of the transfer where nothing is left. -/
theorem hdmaStepCopiesOneChunk : Obligations.HdmaStepCopiesOneChunk := by
  intro s hc hdst hdst'
  have hw := ((Mems.canonical_iff s.mem).mp hc).1
  have hhdma := hdmaAfter_zero hdst hdst'
  have hstart : VramCopied s s.hdma.src s.hdma.dst 0 s := .start hw _ _ rfl rfl
  refine ⟨fun hall => ?_, fun j hj hbefore hbad => ?_⟩
  · obtain ⟨t, ht, ⟨hframe, -, -, hcopied⟩, hengine⟩ :=
      copyChunk_whole hhdma hstart (fun i hi => by rw [Nat.zero_add]; exact hall i hi) (by decide)
    by_cases hlast : (chunkDone t).hdma.len = 0
    · refine ⟨setHdmaActive false (chunkDone t), ?_, hcopied, ?_⟩
      · rw [hdmaStep, ht]
        exact if_pos hlast
      · rw [hengine] at hlast
        have hlen : ¬16 < s.hdma.len := by
          simp only [hdmaAfter] at hlast
          omega
        rw [setHdmaActive, hengine, decide_eq_false hlen, Bool.and_false, chunkDone, hframe]
        rfl
    · refine ⟨chunkDone t, ?_, hcopied, ?_⟩
      · rw [hdmaStep, ht]
        exact if_neg hlast
      · rw [hengine] at hlast
        have hlen : 16 < s.hdma.len := by
          simp only [hdmaAfter] at hlast
          omega
        have hfull : chunkDone t = { s with mem := { s.mem with vram := t.mem.vram }, hdma := (chunkDone t).hdma } := by
          conv_lhs => rw [chunkDone, hframe]
          rfl
        rw [decide_eq_true hlen, Bool.and_true, hfull, hengine]
        rfl
  · obtain ⟨t, ht, ⟨hframe, -, -, hcopied⟩, hengine⟩ :=
      copyChunk_unreadable hhdma hstart hj (fun i hi => by rw [Nat.zero_add]; exact hbefore i hi) (by omega)
        (by rw [Nat.zero_add]; exact hbad)
    rw [Nat.zero_add] at ht hcopied
    refine ⟨t, by rw [hdmaStep, ht], hcopied, ?_⟩
    rw [hengine] at hframe
    exact hframe

/-! ### The write to `HDMA5` (R452) -/

/-- While the source can be read an immediate transfer goes on chunk by chunk. -/
theorem copyChunks_progress {s u : State} {src dst : Word} {len : Nat} {active : Bool}
    (hstart : VramCopied s src dst 0 u) (hhdma : u.hdma = hdmaAfter src dst len active 0)
    (h55 : ∀ t : State, t.hdma.active = active → isCgb t = isCgb s → hdma5Byte t = hdma5Byte s) (n : Nat) {k : Nat}
    (hk : ∀ i, i < k * 16 → readByte s (src + BitVec.ofNat 16 i) ≠ none) (hlen : k * 16 ≤ 0x2000) :
    ∃ t, copyChunks (k + n) u = copyChunks n t ∧ VramCopied s src dst (k * 16) t ∧
      t.hdma = hdmaAfter src dst len active (k * 16) := by
  induction k generalizing n with
  | zero => exact ⟨u, by rw [Nat.zero_add], hstart, hhdma⟩
  | succ k ih =>
    obtain ⟨t, ht, hvt, hengine⟩ := ih (n + 1) (fun i hi => hk i (by omega)) (by omega)
    obtain ⟨w, hw, ⟨hframe, -, hwf, hcopied⟩, hdone⟩ :=
      copyChunk_whole hengine hvt (fun i hi => hk _ (by omega)) (by omega)
    rw [Nat.succ_mul]
    refine ⟨chunkDone w, ?_, ⟨?_, h55 _ (by rw [hdone]; rfl) (by rw [chunkDone, hframe]; rfl), hwf, hcopied⟩, hdone⟩
    · rw [show k + 1 + n = k + (n + 1) by omega, ht, copyChunks, hw]
    · conv_lhs => rw [chunkDone, hframe]
      rfl

/-- The lower four bits of a word cleared. -/
theorem and_FFF0_toNat (x : Word) : (x &&& 0xFFF0#16).toNat = x.toNat / 16 * 16 := by
  have hshift : x &&& 0xFFF0#16 = x >>> 4 <<< 4 := by
    have hmask : ∀ i, i < 16 → (0xFFF0#16).getLsbD i = decide (4 ≤ i) := by decide
    refine BitVec.eq_of_getLsbD_eq fun i hi => ?_
    rw [BitVec.getLsbD_and, hmask i hi, BitVec.getLsbD_shiftLeft, BitVec.getLsbD_ushiftRight, decide_eq_true hi,
      Bool.true_and]
    rcases Nat.lt_or_ge i 4 with h | h
    · simp [h]
    · simp [h, Nat.not_lt.mpr h]
  rw [hshift, BitVec.toNat_shiftLeft, BitVec.toNat_ushiftRight, Nat.shiftRight_eq_div_pow, Nat.shiftLeft_eq]
  have hx := x.isLt
  omega

theorem hdmaSource_toNat (hi lo : Byte) :
    ((hi ++ lo : Word) &&& 0xFFF0#16).toNat = hi.toNat * 256 + lo.toNat / 16 * 16 := by
  rw [and_FFF0_toNat, append_toNat]
  have hlo := lo.isLt
  omega

theorem hdmaDestination_toNat (hi lo : Byte) :
    (0x8000#16 ||| ((hi ++ lo : Word) &&& 0x1FF0#16)).toNat =
      0x8000 + hi.toNat % 32 * 256 + lo.toNat / 16 * 16 := by
  have hmask : (hi ++ lo : Word) &&& 0x1FF0#16 = ((hi ++ lo : Word) &&& 0xFFF0#16) &&& 0x1FFF#16 := by
    rw [BitVec.and_assoc]
    rfl
  have hlow : ((hi ++ lo : Word) &&& 0x1FF0#16).toNat = (hi.toNat * 256 + lo.toNat / 16 * 16) % 0x2000 := by
    rw [hmask, BitVec.toNat_and, hdmaSource_toNat]
    exact Nat.and_two_pow_sub_one_eq_mod _ 13
  have hlt : ((hi ++ lo : Word) &&& 0x1FF0#16).toNat < 2 ^ 15 := by omega
  have hor : (0x8000#16).toNat = 1 <<< 15 := rfl
  rw [BitVec.toNat_or, hor, ← Nat.shiftLeft_add_eq_or_of_lt hlt, hlow]
  have hhi := hi.isLt
  have hlo := lo.isLt
  omega

theorem getLsbD_seven (v : Byte) : v.getLsbD 7 = decide (128 ≤ v.toNat) := by
  have hv := v.isLt
  rw [BitVec.getLsbD, Nat.testBit_eq_decide_div_mod_eq]
  exact decide_eq_decide.mpr (by omega)

section
variable {v : Byte} {s : State}

theorem hdma5Write_cancel (hon : s.hdma.active = true) (hv : v.getLsbD 7 = false) :
    hdma5Write v s = .ok () (setHdmaActive false s) := if_pos ⟨hon, hv⟩

theorem hdma5Write_start (hv : v.getLsbD 7 = true) :
    hdma5Write v s = .ok () (setHdmaActive true (hdmaLoad v s)) :=
  (if_neg fun h => by rw [hv] at h; cases h.2).trans (if_pos hv)

theorem hdma5Write_load (hoff : s.hdma.active = false) (hv : v.getLsbD 7 = false) :
    hdma5Write v s = if s.setup.gdmaImmediate then
        match copyChunks (v.toNat % 128 + 1) (hdmaLoad v s) with
        | .ok _ t => .ok () (setHdmaActive false t)
        | .fatal addr t => .fatal addr t
      else .ok () (setHdmaActive true (hdmaLoad v s)) :=
  (if_neg fun h => by rw [hoff] at h; cases h.1).trans (if_neg (Bool.eq_false_iff.mp hv))

end

/-- A transfer that starts with what the write loads, the engine inactive. -/
theorem hdmaLoad_start {s : State} (hw : s.mem.vram.wf = true) (hoff : s.hdma.active = false) (v : Byte) :
    VramCopied s (hdmaLoad v s).hdma.src (hdmaLoad v s).hdma.dst 0 (hdmaLoad v s) ∧
      (hdmaLoad v s).hdma =
        hdmaAfter (hdmaLoad v s).hdma.src (hdmaLoad v s).hdma.dst ((v.toNat % 128 + 1) * 16) false 0 := by
  refine ⟨.start hw _ _ rfl ?_, ?_⟩
  · rw [hdma5Byte_inactive hoff]
    exact hdma5Byte_inactive hoff
  · have hdst : (hdmaLoad v s).hdma.dst.toNat = _ := hdmaDestination_toNat (io s 0x53) (io s 0x54)
    have hlo := (io s 0x54).isLt
    refine (hdmaAfter_zero (s := hdmaLoad v s) (by omega) (by omega)).trans ?_
    rw [show (hdmaLoad v s).hdma.active = false from hoff]
    rfl

/-- Settles O43: the branches of the write; the immediate copy goes on while the source can be read, in whole chunks and
then within the one that meets the unreadable byte. -/
theorem hdmaWriteStartsOrCancels : Obligations.HdmaWriteStartsOrCancels := by
  intro s v hcgb hc
  have hw := ((Mems.canonical_iff s.mem).mp hc).1
  have hwrite : writeByte s 0xFF55 v = hdma5Write v s :=
    (writeByte_io s (n := 0x55) (by decide) v).trans (ioWrite_cgb hcgb (by decide) v)
  have hhigh (h : 128 ≤ v.toNat) : v.getLsbD 7 = true := by rw [getLsbD_seven, decide_eq_true h]
  have hlow (h : v.toNat < 128) : v.getLsbD 7 = false := by rw [getLsbD_seven, decide_eq_false (by omega)]
  refine ⟨fun hon h => hwrite.trans (hdma5Write_cancel hon (hlow h)), (hdmaLoad v s).hdma.src,
    (hdmaLoad v s).hdma.dst, (v.toNat % 128 + 1) * 16, hdmaSource_toNat _ _, hdmaDestination_toNat _ _, rfl,
    fun h => hwrite.trans (hdma5Write_start (hhigh h)), fun h hoff himm => ?_, fun h hoff himm => ?_⟩
  · rw [hwrite, hdma5Write_load hoff (hlow h), himm]
    rfl
  rw [hwrite, hdma5Write_load hoff (hlow h), if_pos himm]
  obtain ⟨hstart, hhdma⟩ := hdmaLoad_start hw hoff v
  generalize (hdmaLoad v s).hdma.src = src at hstart hhdma ⊢
  generalize (hdmaLoad v s).hdma.dst = dst at hstart hhdma ⊢
  generalize hdmaLoad v s = u at hstart hhdma ⊢
  have hcount : v.toNat % 128 + 1 ≤ 128 := by omega
  generalize v.toNat % 128 + 1 = count at hhdma hcount ⊢
  have h55 (t : State) (ht : t.hdma.active = false) (_ : isCgb t = isCgb s) : hdma5Byte t = hdma5Byte s := by
    rw [hdma5Byte_inactive ht, hdma5Byte_inactive hoff]
  refine ⟨fun hall => ?_, fun j hj hbefore hbad => ?_⟩
  · obtain ⟨t, ht, ⟨hframe, -, -, hcopied⟩, hengine⟩ :=
      copyChunks_progress hstart hhdma h55 0 (k := count) hall (by omega)
    rw [Nat.add_zero] at ht
    refine ⟨setHdmaActive false t, by rw [ht]; rfl, hcopied, ?_⟩
    rw [setHdmaActive, hengine, hframe]
    simp only [hdmaAfter, Nat.sub_self]
  · have hchunk := Nat.div_add_mod' j 16
    have hin : j % 16 < 16 := Nat.mod_lt _ (by decide)
    obtain ⟨t, ht, hvt, hengine⟩ := copyChunks_progress hstart hhdma h55 (count - j / 16) (k := j / 16)
      (fun i hi => hbefore i (by omega)) (by omega)
    obtain ⟨w, hw, ⟨hframe, -, -, hcopied⟩, hhdma'⟩ := copyChunk_unreadable hengine hvt hin
      (fun i hi => hbefore _ (by omega)) (by omega) (by rw [hchunk]; exact hbad)
    rw [hchunk] at hw hcopied
    obtain ⟨m, hm⟩ : ∃ m, count - j / 16 = m + 1 := ⟨count - j / 16 - 1, by omega⟩
    rw [show j / 16 + (count - j / 16) = count by omega, hm, copyChunks, hw] at ht
    refine ⟨w, by rw [ht], hcopied, ?_⟩
    rw [hhdma', hengine] at hframe
    exact hframe

end Sys2Proof.Claims
end

section
/-! PROOFS. What every step keeps of the devices (R42, R45): the Timer's accumulators and the H-blank DMA engine. -/

namespace Sys2Proof.Machine

/-- The part of `hdmaLegal` that says nothing of an active transfer (R45, R451). -/
def EngineAligned (h : HdmaState) : Prop :=
  h.len % 16 = 0 ∧ h.len ≤ 2048 ∧ h.src.toNat % 16 = 0 ∧ h.dst.toNat % 16 = 0 ∧ 0x8000 ≤ h.dst.toNat ∧ h.dst.toNat < 0xA000

theorem hdmaLegal_iff (s : State) :
    s.hdmaLegal ↔ EngineAligned s.hdma ∧ (s.hdma.active = true → 0 < s.hdma.len) := by
  constructor
  · rintro ⟨h1, h2, h3, h4⟩
    exact ⟨⟨h1, h2, h4⟩, h3⟩
  · rintro ⟨⟨h1, h2, h4⟩, h3⟩
    exact ⟨h1, h2, h3, h4⟩

theorem hdmaLegal_congr {s t : State} (h : t.hdma = s.hdma) : t.hdmaLegal ↔ s.hdmaLegal := by
  rw [hdmaLegal_iff, hdmaLegal_iff, h]

/-- An inactive engine is legal if it is aligned. -/
theorem EngineAligned.inactive {s : State} (h : EngineAligned s.hdma) : (setHdmaActive false s).hdmaLegal :=
  (hdmaLegal_iff _).mpr ⟨h, nofun⟩

theorem engineAligned_chunkDone {s : State} (h : EngineAligned s.hdma) : EngineAligned (chunkDone s).hdma := by
  obtain ⟨h1, h2, h3, h4, h5, h6⟩ := h
  have hsrc : (s.hdma.src + 16).toNat % 16 = 0 := by bv_omega
  have hoff : (s.hdma.dst - 0x8000#16).toNat = s.hdma.dst.toNat - 0x8000 := by bv_omega
  have hdst : (0x8000#16 + BitVec.ofNat 16 (((s.hdma.dst - 0x8000#16).toNat + 16) % 0x2000)).toNat =
      0x8000 + (s.hdma.dst.toNat - 0x8000 + 16) % 0x2000 := by
    rw [hoff, BitVec.toNat_add, BitVec.toNat_ofNat]
    simp only [BitVec.toNat_ofNat]
    omega
  unfold EngineAligned chunkDone
  dsimp only
  rw [hdst]
  exact ⟨by omega, by omega, hsrc, by omega, by omega, by omega⟩

theorem engineAligned_copyChunk {s t : State} (h : copyChunk s = .ok () t) (hs : EngineAligned s.hdma) :
    EngineAligned t.hdma := by
  obtain ⟨u, hu, rfl⟩ := copyChunk_cases h
  refine engineAligned_chunkDone ?_
  rw [chunkCopy_frame hu]
  exact hs

theorem engineAligned_copyChunks {n : Nat} {s t : State} (h : copyChunks n s = .ok () t) (hs : EngineAligned s.hdma) :
    EngineAligned t.hdma := by
  induction n generalizing s with
  | zero =>
    cases h
    exact hs
  | succ n ih =>
    rw [copyChunks] at h
    split at h
    · next u hu => exact ih h (engineAligned_copyChunk hu hs)
    · cases h

theorem hdmaStep_legal {s t : State} (h : hdmaStep s = .ok () t) (hs : s.hdmaLegal) : t.hdmaLegal := by
  unfold hdmaStep at h
  split at h
  · cases h
  · next u hu =>
    have hua := engineAligned_copyChunk hu ((hdmaLegal_iff s).mp hs).1
    split at h
    · cases h
      exact hua.inactive
    · next hlen =>
      cases h
      exact (hdmaLegal_iff _).mpr ⟨hua, fun _ => Nat.pos_of_ne_zero hlen⟩

end Sys2Proof.Machine

namespace Sys2Proof.Claims

open Sys2Proof.Machine

/-- What a start loads is a legal transfer, active or not (R452). -/
theorem hdmaLoad_legal (v : Byte) (s : State) : (hdmaLoad v s).hdmaLegal := by
  have hsrc : (hdmaLoad v s).hdma.src.toNat = _ := hdmaSource_toNat (io s 0x51) (io s 0x52)
  have hdst : (hdmaLoad v s).hdma.dst.toNat = _ := hdmaDestination_toNat (io s 0x53) (io s 0x54)
  have hlo := (io s 0x54).isLt
  have hlen : (hdmaLoad v s).hdma.len = (v.toNat % 128 + 1) * 16 := rfl
  rw [hdmaLegal_iff]
  exact ⟨⟨by omega, by omega, by omega, by omega, by omega, by omega⟩, fun _ => by omega⟩

theorem hdmaLoad_active_legal (v : Byte) (s : State) : (setHdmaActive true (hdmaLoad v s)).hdmaLegal :=
  hdmaLoad_legal v (setHdmaActive true s)

theorem hdma5Write_legal {v : Byte} {s t : State} (h : hdma5Write v s = .ok () t) (hs : s.hdmaLegal) : t.hdmaLegal := by
  cases hv : v.getLsbD 7
  · cases hon : s.hdma.active
    · rw [hdma5Write_load hon hv] at h
      split at h
      · split at h
        · next u hu =>
          cases h
          exact (engineAligned_copyChunks hu ((hdmaLegal_iff _).mp (hdmaLoad_legal v s)).1).inactive
        · cases h
      · cases h
        exact hdmaLoad_active_legal v s
    · rw [hdma5Write_cancel hon hv] at h
      cases h
      exact ((hdmaLegal_iff s).mp hs).1.inactive
  · rw [hdma5Write_start hv] at h
    cases h
    exact hdmaLoad_active_legal v s

/-- A write leaves the Timer's accumulators and its selection alone, and the engine legal. -/
theorem writeByte_devices {s t : State} {addr : Word} {v : Byte} (h : writeByte s addr v = .ok () t) :
    t.timer = { s.timer with divReset := t.timer.divReset } ∧ (s.hdmaLegal → t.hdmaLegal) := by
  rcases writeByte_cases h with ⟨-, rfl⟩ | ⟨_, -, rfl⟩ | ⟨_, -, rfl⟩ | ⟨_, -, rfl⟩ | ⟨_, -, rfl⟩ | ⟨_, -, h⟩ |
    ⟨_, -, rfl⟩ | ⟨-, rfl⟩
  case inl =>
    rw [bankWrite_frame]
    exact ⟨rfl, id⟩
  case inr.inr.inr.inr.inr.inl =>
    rcases ioWrite_cases h with ⟨-, rfl⟩ | ⟨-, rfl⟩ | ⟨-, rfl⟩ | ⟨-, rfl⟩ | ⟨-, rfl⟩ | ⟨-, rfl⟩ | ⟨-, rfl⟩ | ⟨-, h⟩ |
      ⟨-, rfl⟩ | ⟨-, -, rfl⟩ | ⟨-, -, h⟩ | ⟨-, -, rfl⟩ | ⟨-, -, rfl⟩ | ⟨-, -, -, -, -, -, -, -, -, -, rfl⟩
    case inr.inl =>
      rw [sbWrite_eq]
      exact ⟨rfl, id⟩
    case inr.inr.inr.inl =>
      rw [lcdcWrite_frame]
      exact ⟨rfl, id⟩
    case inr.inr.inr.inr.inr.inr.inl =>
      rw [lycWrite, coincidenceCheck_frame]
      exact ⟨rfl, id⟩
    case inr.inr.inr.inr.inr.inr.inr.inl =>
      rw [dmaWrite_frame h]
      exact ⟨rfl, id⟩
    case inr.inr.inr.inr.inr.inr.inr.inr.inr.inr.inl =>
      refine ⟨?_, hdma5Write_legal h⟩
      rw [hdma5Write_frame h]
    all_goals exact ⟨rfl, id⟩
  all_goals exact ⟨rfl, id⟩

theorem leaveHBlank_hdma (s : State) : (leaveHBlank s).hdma = s.hdma := by
  have hline (v : Byte) : (enterLine v s).hdma = s.hdma := by
    rw [enterLine, coincidenceCheck_frame]
    rfl
  rw [leaveHBlank_eq]
  split
  · refine Eq.trans ?_ (hline (ly s + 1))
    rw [enterVBlank, statRequest_frame]
    rfl
  · refine Eq.trans ?_ (hline (ly s + 1))
    rw [enterMode, statRequest_frame]
    rfl

/-- A transition leaves the engine legal. -/
theorem ppuTransition_hdmaLegal {s t : State} (h : ppuTransition s = .ok () t) (hs : s.hdmaLegal) : t.hdmaLegal := by
  rcases ppuTransition_cases h with ⟨-, rfl⟩ | ⟨-, h⟩ | ⟨-, rfl⟩ | ⟨-, rfl⟩
  · exact hs
  · have hs' : (enterHBlank (paid s)).hdmaLegal := by
      rw [enterHBlank_frame]
      exact hs
    rw [leavePixelTransfer_eq] at h
    split at h
    · exact hdmaStep_legal h hs'
    · cases h
      exact hs'
  · exact (hdmaLegal_congr (leaveHBlank_hdma _)).mpr hs
  · rw [leaveVBlankLine_frame]
    exact hs

theorem ppuAdvance_hdmaLegal {c : Nat} {s t : State} (h : ppuAdvance c s = .ok () t) (hs : s.hdmaLegal) :
    t.hdmaLegal := by
  unfold ppuAdvance at h
  split at h
  · exact ppuRun_induct (fun _ _ hu _ huv => ppuTransition_hdmaLegal huv hu) h hs
  · cases h
    exact hs

/-! ### The Timer (R42) -/

theorem timaPeriod_congr {s t : State} (h : t.setup = s.setup) : timaPeriod t = timaPeriod s := by
  funext sel
  rw [timaPeriod_eq_periodOf, timaPeriod_eq_periodOf, periodOf, h]
  rfl

theorem divPeriod_congr {s t : State} (h : t.setup = s.setup) : divPeriod t = divPeriod s := by
  rw [divPeriod, h]
  rfl

theorem divAdvance_divAcc {s : State} (hp : s.setup.periods.wf = true) (c : Nat) :
    (divAdvance c s).timer.divAcc < divPeriod s := by
  have hpos := divPeriod_pos hp
  cases h : s.timer.divReset
  · rw [divAdvance_count h]
    exact Nat.mod_lt _ hpos
  · rw [divAdvance_reset h]
    exact hpos

/-- The main counter's advance leaves its accumulator below the selected period, and the divider alone. -/
theorem timaAdvance_timer {s : State} (hp : s.setup.periods.wf = true)
    (hs : s.timer.timaAcc < timaPeriod s s.timer.timaSel) (c : Nat) :
    (timaAdvance c s).timer.timaAcc < timaPeriod s (timaAdvance c s).timer.timaSel ∧
      (timaAdvance c s).timer.divAcc = s.timer.divAcc := by
  rw [← timaAdvance_select]
  have hsel : (timaSelect s).timer.timaAcc < timaPeriod s (timaSelect s).timer.timaSel ∧
      (timaSelect s).timer.divAcc = s.timer.divAcc ∧ (timaSelect s).setup = s.setup := by
    by_cases h : (tacReg s).extractLsb' 0 2 = s.timer.timaSel
    · rw [timaSelect_same h]
      exact ⟨hs, rfl, rfl⟩
    · rw [timaSelect_change h]
      exact ⟨timaPeriod_pos hp _, rfl, rfl⟩
  have hselected := timaSelect_selected s
  generalize timaSelect s = u at hsel hselected ⊢
  obtain ⟨hacc, hdiv, hsetup⟩ := hsel
  have hperiod := timaPeriod_congr hsetup
  cases hon : (tacReg u).getLsbD 2
  · rw [timaAdvance_disabled hselected hon]
    exact ⟨hacc, hdiv⟩
  · rw [timaAdvance_enabled hselected hon, timaTicks_timer, hperiod]
    exact ⟨Nat.mod_lt _ (timaPeriod_pos hp _), hdiv⟩

theorem timerAdvance_legal {s : State} (hp : s.setup.periods.wf = true) (hs : s.timerLegal) (c : Nat) :
    (timerAdvance c s).timerLegal := by
  have hsetup : (timerAdvance c s).setup = s.setup := by rw [timerAdvance_frame]
  have hframe := divAdvance_frame c s
  have hacc : (divAdvance c s).timer.timaAcc < timaPeriod (divAdvance c s) (divAdvance c s).timer.timaSel := by
    rw [hframe]
    exact hs.2
  obtain ⟨htima, hdiv⟩ := timaAdvance_timer (s := divAdvance c s) (by rw [hframe]; exact hp) hacc c
  rw [State.timerLegal, divPeriod_congr hsetup, timaPeriod_congr hsetup]
  refine ⟨?_, ?_⟩
  · exact hdiv.trans_lt (divAdvance_divAcc hp c)
  · rwa [timaPeriod_congr (s := s) (by rw [hframe])] at htima

/-- What a step keeps of the devices, for admitted periods. -/
def DevicesKept (s : State) : Prop := s.setup.periods.wf = true ∧ s.timerLegal ∧ s.hdmaLegal

theorem timerLegal_congr {s t : State} (hsetup : t.setup = s.setup)
    (htimer : t.timer = { s.timer with divReset := t.timer.divReset }) (hs : s.timerLegal) : t.timerLegal := by
  rw [State.timerLegal, divPeriod_congr hsetup, timaPeriod_congr hsetup, htimer]
  exact hs

theorem devicesKept_step : KeptByStep DevicesKept where
  cpu s t h hs := by
    rw [h]
    exact hs
  write s a v t h hs := by
    obtain ⟨hp, ht, hd⟩ := hs
    have hsetup := (writeByte_frame h).1
    obtain ⟨htimer, hhdma⟩ := writeByte_devices h
    exact ⟨hsetup ▸ hp, timerLegal_congr hsetup htimer ht, hhdma hd⟩
  io _ _ _ _ hs := hs
  host _ _ hs := hs
  ppu c s t h hs := by
    obtain ⟨hp, ht, hd⟩ := hs
    have hframe := ppuAdvance_frame h
    have hsetup : t.setup = s.setup := by rw [hframe]
    exact ⟨hsetup ▸ hp, timerLegal_congr hsetup (by rw [hframe]) ht, ppuAdvance_hdmaLegal h hd⟩
  timer c s hs := by
    obtain ⟨hp, ht, hd⟩ := hs
    have hframe := timerAdvance_frame c s
    have hsetup : (timerAdvance c s).setup = s.setup := by rw [hframe]
    exact ⟨hsetup ▸ hp, timerAdvance_legal hp ht c, (hdmaLegal_congr (by rw [hframe])).mpr hd⟩
  sched _ _ hs := hs
  dirty _ _ hs := hs

/-- Settles O57: only the Timer's own advance changes its accumulators, which it leaves below their periods, and only
starts, cancels and whole chunks change the engine. -/
theorem stepKeepsTheDevicesLegal : Obligations.StepKeepsTheDevicesLegal :=
  fun _ _ hp ht hd h => (devicesKept_step.machineStep h ⟨hp, ht, hd⟩).2

end Sys2Proof.Claims
end

section
/-! PROOFS. What every instruction does (files 40 to 46): how it can end, the stores it makes in order, and its cost. -/

namespace Sys2Proof.Machine

/-! ### How an instruction can end -/

/-- A fault of the Processor, with the latch that says so (R115, R350). -/
def ProcessorEnd (r : Fault) : Prop := ∃ info u, r = .processorFault info u ∧ u.fault = some ⟨.processor, info⟩

/-- The outcome is a next state with the property, or a fatal condition of the Processor. -/
def Ends (Q : State → Prop) : Out → Prop
  | .next t => Q t
  | .fault r => ProcessorEnd r
  | .refused _ => False

section
variable {Q : State → Prop}

theorem Ends.next {o : Out} {t : State} (h : Ends Q o) (ht : o = .next t) : Q t := by
  rw [ht] at h
  exact h

theorem Ends.fault {o : Out} {r : Fault} (h : Ends Q o) (hr : o = .fault r) : ProcessorEnd r := by
  rw [hr] at h
  exact h

theorem ends_mono {P : State → Prop} {o : Out} (h : Ends P o) (hPQ : ∀ t, P t → Q t) : Ends Q o := by
  cases o with
  | next t => exact hPQ t h
  | fault r => exact h
  | refused r => exact h

theorem ends_fatal (info : FatalInfo) (s : State) : Ends Q (processorFatal info s) := ⟨info, _, rfl, rfl⟩

theorem ends_read {addr : Word} {s : State} {k : Byte → Out} (h : ∀ v, Ends Q (k v)) : Ends Q (withRead addr s k) := by
  unfold withRead
  split
  · exact h _
  · exact ends_fatal _ _

theorem ends_afterBus {α : Type} {r : Res α} {k : α → State → Out} (h : ∀ v u, r = .ok v u → Ends Q (k v u)) :
    Ends Q (afterBus r k) := by
  cases r with
  | ok v u => exact h v u rfl
  | fatal addr u => exact ends_fatal _ _

theorem ends_thenOut {P : State → Prop} {o : Out} {k : State → Out} (h : Ends P o) (hk : ∀ t, P t → Ends Q (k t)) :
    Ends Q (thenOut o k) := by
  cases o with
  | next t => exact hk t h
  | fault r => exact h
  | refused r => exact h

end

/-! ### Stores and costs -/

/-- From `s` to `t` the stores go to the given addresses in order, and between them only registers change. -/
def StoresAt : List Word → State → State → Prop
  | [], s, t => OnlyCpu s t
  | a :: rest, s, t => ∃ s1 v u, OnlyCpu s s1 ∧ writeByte s1 a v = .ok () u ∧ StoresAt rest u t

theorem StoresAt.after {as : List Word} {s s' t : State} (hs : OnlyCpu s s') (h : StoresAt as s' t) :
    StoresAt as s t := by
  cases as with
  | nil => exact hs.trans h
  | cons a as =>
    obtain ⟨s1, v, u, h1, h2, h3⟩ := h
    exact ⟨s1, v, u, hs.trans h1, h2, h3⟩

theorem StoresAt.setup {as : List Word} {s t : State} (h : StoresAt as s t) : t.setup = s.setup := by
  induction as generalizing s with
  | nil => exact OnlyCpu.setup h
  | cons a as ih =>
    obtain ⟨s1, v, u, h1, h2, h3⟩ := h
    rw [ih h3, (writeByte_frame h2).1, h1.setup]

/-- The instruction ends having stored at the given addresses, at its cost, that of a taken transfer if it is one. -/
def Runs (i : Instr) (as : List Word) (taken : Bool) (s : State) (o : Out) : Prop :=
  Ends (fun t => StoresAt as s t ∧
    t.cpu.cycI = if taken then takenCostOf s.setup.costs i else costOf s.setup.costs i) o

section
variable {i : Instr} {as : List Word} {taken : Bool} {s : State}

theorem runs_done {u : State} (h : OnlyCpu s u) : Runs i [] false s (done i u) :=
  ⟨h.trans (onlyCpu_cpu _ _), by rw [h.setup]; rfl⟩

theorem runs_doneTaken {u : State} (h : OnlyCpu s u) : Runs i [] true s (doneTaken i u) :=
  ⟨h.trans (onlyCpu_cpu _ _), by rw [h.setup]; rfl⟩

theorem runs_read {addr : Word} {k : Byte → Out} (h : ∀ v, Runs i as taken s (k v)) :
    Runs i as taken s (withRead addr s k) := ends_read h

theorem Runs.after {u : State} {o : Out} (hu : OnlyCpu s u) (h : Runs i as taken u o) : Runs i as taken s o :=
  ends_mono h fun _ ⟨hst, hc⟩ => ⟨hst.after hu, by rw [hc, hu.setup]⟩

/-- One store, and then what follows it. -/
theorem runs_store {s1 u : State} {a : Word} {v : Byte} {o : Out} (h1 : OnlyCpu s s1)
    (h2 : writeByte s1 a v = .ok () u) (h : Runs i as taken u o) : Runs i (a :: as) taken s o :=
  ends_mono h fun _ ⟨hst, hc⟩ => ⟨⟨s1, v, u, h1, h2, hst⟩, by rw [hc, (writeByte_frame h2).1, h1.setup]⟩

theorem runs_write {a : Word} {v : Byte} {k : State → Out} (h : ∀ u, Runs i [] taken u (k u)) :
    Runs i [a] taken s (withWrite a v s k) :=
  ends_afterBus fun _ u hu => runs_store (.refl s) hu (h u)

theorem runs_writeWord {a w : Word} {k : Unit → State → Out} (h : ∀ u, Runs i [] taken u (k () u)) :
    Runs i [a, a + 1] taken s (afterBus (writeWord s a w) k) := by
  refine ends_afterBus fun _ u hu => ?_
  unfold writeWord at hu
  split at hu
  · cases hu
  · next hw => exact runs_store (.refl s) hw (runs_store (.refl _) hu (h u))

theorem runs_push {w : Word} {k : Unit → State → Out} (h : ∀ u, Runs i [] taken u (k () u)) :
    Runs i [s.cpu.sp - 1, s.cpu.sp - 2] taken s (afterBus (push16 w s) k) := by
  refine ends_afterBus fun _ u hu => ?_
  obtain ⟨t, ht, hu⟩ := push16_ok hu
  exact runs_store (onlyCpu_setReg16 _ _ _) ht (runs_store (onlyCpu_setReg16 _ _ _) hu (h u))

theorem runs_pop {k : Word → State → Out} (h : ∀ v u, Runs i [] taken u (k v u)) :
    Runs i [] taken s (afterBus (pop16 s) k) := by
  refine ends_afterBus fun v u hu => ?_
  obtain ⟨_, _, -, -, -, rfl⟩ := pop16_ok hu
  exact (h v _).after (onlyCpu_cpu _ _)

theorem runs_callTo {w : Word} {fin : State → Out} (h : ∀ u v, OnlyCpu u v → Runs i [] taken u (fin v)) :
    Runs i [s.cpu.sp - 1, s.cpu.sp - 2] taken s (callTo w fin s) :=
  runs_push fun u => h u _ (onlyCpu_cpu _ _)

theorem runs_returnWith {fin : State → Out} (h : ∀ u v, OnlyCpu u v → Runs i [] taken u (fin v)) :
    Runs i [] taken s (returnWith fin s) :=
  runs_pop fun _ u => h u _ (onlyCpu_cpu _ _)

theorem runs_reti : Runs .reti [] false s (execReti s) := by
  refine ends_afterBus fun _ u hu => ?_
  unfold returnFromInterrupt at hu
  split at hu
  · cases hu
  · next v w hw =>
    obtain ⟨_, _, -, -, -, rfl⟩ := pop16_ok hw
    cases hu
    exact runs_done rfl

/-- A conditional transfer is that of its condition (R310). -/
theorem runs_conditional {c : Bool} {as : List Word} {o o' : Out} (h : Runs i as true s o) (h' : Runs i [] false s o') :
    Runs i (if c then as else []) c s (if c then o else o') := by
  cases c
  · exact h'
  · exact h

theorem runs_conditional_jump {c : Bool} {o o' : Out} (h : Runs i [] true s o) (h' : Runs i [] false s o') :
    Runs i [] c s (if c then o else o') := by
  cases c
  · exact h'
  · exact h

theorem runs_shiftHl {f : Byte → Byte × Bool} : Runs i [reg16 s .hl] false s (shiftHl i f s) :=
  runs_read fun _ => runs_write fun _ => runs_done rfl

theorem runs_modifyHl {f : Byte → Byte} : Runs i [reg16 s .hl] false s (modifyHl i f s) :=
  runs_read fun _ => runs_write fun _ => runs_done rfl

end

end Sys2Proof.Machine

namespace Sys2Proof.Claims

open Sys2Proof.Machine

theorem runs_undefined {i : Instr} {as : List Word} {taken : Bool} (op : Byte) (s : State) :
    Runs i as taken s (undefinedOpcode op s) := ends_fatal _ _

/-- Every instruction but the escape ends having stored at the addresses its rule names, at its cost. -/
theorem exec_runs {i : Instr} (hi : i ≠ .prefixCb) (s : State) :
    Runs i (storeAddresses i s) (isTaken i s.cpu.flags) s (exec i s) := by
  cases i
  case prefixCb => exact absurd rfl hi
  -- Registers only.
  case nop | halt | stop | di | ei | jpA16 | jpHl | jrE8 | ldSpHl | daa | cpl | scf | ccf => exact runs_done rfl
  case rlca | rrca | rla | rra | addSpE8 | ldHlSpE8 | addHlRr => exact runs_done rfl
  case addR | adcR | subR | sbcR | andR | xorR | orR | cpR | bitBR => exact runs_done rfl
  case addD8 | adcD8 | subD8 | sbcD8 | andD8 | xorD8 | orD8 | cpD8 => exact runs_done rfl
  case ldRR | ldRD8 | resBR | setBR => exact runs_done (onlyCpu_setReg8 _ _ _)
  case ldRrD16 | incRr | decRr => exact runs_done (onlyCpu_setReg16 _ _ _)
  case incR | decR | rlcR | rrcR | rlR | rrR | slaR | sraR | swapR | srlR =>
    exact runs_done (onlyCpu_setFlags_setReg8 _ _ _ _)
  -- A read, then registers only.
  case ldABc | ldADe | ldAA16 | ldhAC | ldhAA8 | ldAHli | ldAHld => exact runs_read fun _ => runs_done rfl
  case addHl | adcHl | subHl | sbcHl | andHl | xorHl | orHl | cpHl | bitBHl => exact runs_read fun _ => runs_done rfl
  case ldRHl => exact runs_read fun _ => runs_done (onlyCpu_setReg8 _ _ _)
  -- One store.
  case ldHlR | ldHlD8 | ldBcA | ldDeA | ldA16A | ldhCA | ldhA8A | ldHliA | ldHldA =>
    exact runs_write fun _ => runs_done rfl
  case incHl | decHl => exact runs_read fun _ => runs_write fun _ => runs_done rfl
  case rlcHl | rrcHl | rlHl | rrHl | slaHl | sraHl | swapHl | srlHl => exact runs_shiftHl
  case resBHl | setBHl => exact runs_modifyHl
  -- A word at an address or on the stack.
  case ldA16Sp => exact runs_writeWord fun _ => runs_done rfl
  case pushRr => exact runs_push fun _ => runs_done rfl
  case popAf | popRr => exact runs_pop fun _ _ => runs_done (onlyCpu_setReg16 _ _ _)
  case callA16 | rstN => exact runs_callTo fun _ _ => runs_done
  case ret => exact runs_returnWith fun _ _ => runs_done
  case reti => exact runs_reti
  -- Transfers under a condition.
  case jpCcA16 | jrCcE8 => exact runs_conditional_jump (runs_doneTaken rfl) (runs_done rfl)
  case callCcA16 => exact runs_conditional (runs_callTo fun _ _ => runs_doneTaken) (runs_done rfl)
  case retCc => exact runs_conditional_jump (runs_returnWith fun _ _ => runs_doneTaken) (runs_done rfl)
  case undefinedD3 | undefinedDB | undefinedDD | undefinedE3 | undefinedE4 | undefinedEB | undefinedEC | undefinedED |
    undefinedF4 | undefinedFC | undefinedFD => exact runs_undefined _ s

/-- The escape's second byte selects an instruction behind the escape (R151). -/
theorem decodeSecondary_ne_of_encode {op2 : Byte} {i : Instr} (h : ∀ b : Byte, encode i ≠ [0xCB, b]) :
    decodeSecondary op2 ≠ i := fun hi => h op2 (hi ▸ encode_decodeSecondary op2)

theorem decodeSecondary_ne_prefixCb (op2 : Byte) : decodeSecondary op2 ≠ .prefixCb :=
  decodeSecondary_ne_of_encode fun _ => nofun

/-- An instruction ends in a next state or in a fatal condition of the Processor. -/
theorem exec_ends (i : Instr) (s : State) : Ends (fun _ => True) (exec i s) := by
  by_cases hi : i = .prefixCb
  · subst hi
    rcases hread : readByte s s.cpu.pc with _ | op2
    · rw [exec_prefixCb_none hread]
      exact ends_fatal _ _
    · rw [exec_prefixCb_some hread]
      exact ends_mono (exec_runs (decodeSecondary_ne_prefixCb op2) _) fun _ _ => trivial
  · exact ends_mono (exec_runs hi s) fun _ _ => trivial

/-! ### Fatal conditions (R115, R350) -/

theorem executePath_ends (s : State) : Ends (fun _ => True) (executePath s) :=
  ends_afterBus fun _ _ _ => ends_thenOut (exec_ends _ _) fun _ _ => trivial

theorem stepBody_ends (s : State) : Ends (fun _ => True) (stepBody s) := by
  unfold stepBody
  split
  · trivial
  · refine ends_thenOut (P := fun _ => True) ?_ fun _ _ => trivial
    split
    · trivial
    · exact executePath_ends s

theorem processorStep_ends (s : State) : Ends (fun _ => True) (processorStep s) :=
  ends_thenOut (stepBody_ends _) fun _ _ => ends_afterBus fun _ _ _ => trivial

theorem devicesAdvance_fault {s : State} {r : Fault} (h : devicesAdvance s = .fault r) :
    ∃ addr u, r = .pixelProcessorFault (.address addr) u ∧ u.fault = some ⟨.pixelProcessor, .address addr⟩ := by
  unfold devicesAdvance at h
  split at h
  · next addr t _ =>
    cases h
    exact ⟨addr, _, rfl, rfl⟩
  · cases h

/-- Settles O38: the places that name nothing, and the ends of a Processor step and of the devices. -/
theorem fatalAccessesAreExactlyTheListed : Obligations.FatalAccessesAreExactlyTheListed := by
  refine ⟨fun s addr => ⟨readByte_eq_none.trans locate_eq_nothing,
    fun h v => writeByte_nothing (readByte_eq_none.mp h) v, fun h h46 h55 v => ?_⟩,
    fun s r h => (processorStep_ends s).fault h, fun s r h => devicesAdvance_fault h⟩
  rw [ne_eq, readByte_eq_none] at h
  rcases hplace : locate s addr
  case io n =>
    obtain ⟨rfl, hn⟩ := locate_eq_io hplace
    rw [writeByte_io s hn]
    exact ioWrite_ok (by rintro rfl; exact h46 rfl) (h55.imp_right fun hne hn => hne (by rw [hn]; rfl)) v
  case nothing => exact absurd hplace h
  all_goals exact ⟨_, by rw [writeByte, hplace]⟩

/-! ### Costs (R147, R151, R153) -/

/-- The opcode of a conditional transfer is not the escape (R310). -/
theorem encode_of_taken {i : Instr} {f : Flags} (h : isTaken i f = true) :
    ∃ op rest, encode i = op :: rest ∧ op ≠ 0xCB := by
  cases i
  case jpCcA16 cc _ | jrCcE8 cc _ | callCcA16 cc _ | retCc cc =>
    exact ⟨_, _, rfl, packCc_ne_escape _ cc (by decide)⟩
  all_goals cases h

theorem costEntry_eq (i : Instr) (s : State) :
    (if isTaken i s.cpu.flags then takenCostOf s.setup.costs i else costOf s.setup.costs i) =
      costEntry s (encode i) (isTaken i s.cpu.flags) := by
  cases ht : isTaken i s.cpu.flags
  · rcases hcode : encode i with _ | ⟨op, _ | ⟨d, rest⟩⟩ <;> simp [costOf, costEntry, hcode, cyclesOf, cyclesCbOf]
  · obtain ⟨op, rest, hcode, hop⟩ := encode_of_taken ht
    rw [hcode, if_pos rfl, takenCostOf_cons hcode]
    cases rest with
    | nil => rfl
    | cons d rest => exact (if_neg hop).symm

/-- The grid of the secondary table (R151): by register, by `(HL)`, and `BIT` that stores nothing. -/
theorem defaultCyclesCb_entry : ∀ (x : BitVec 2) (y z : BitVec 3),
    tableAt defaultCosts.cyclesCb (packXyz x y z) = if z = 6 then if x = 1 then 12 else 16 else 8 := by
  decide

/-- The default cost by the grids (R147, R151): the table's entry for each encoding. -/
theorem defaultCost_eq_rowCost {i : Instr} (hwf : i.wf = true) (f : Flags) :
    (if isTaken i f then takenCostOf defaultCosts i else costOf defaultCosts i) = rowCost i f := by
  cases i
  -- Nothing of the opcode depends on an operand.
  case nop | halt | stop | di | ei | jpHl | daa | cpl | scf | ccf | rlca | rrca | rla | rra => rfl
  case ldBcA | ldDeA | ldABc | ldADe | ldHliA | ldHldA | ldAHli | ldAHld | ldhAC | ldhCA | ldSpHl | ldHlD8 => rfl
  case addHl | addD8 | adcHl | adcD8 | subHl | subD8 | sbcHl | sbcD8 | andHl | andD8 | xorHl | xorD8 | orHl | orD8 => rfl
  case cpHl | cpD8 | incHl | decHl | ldhA8A | ldhAA8 | ldHlSpE8 | addSpE8 | popAf | jrE8 | jpA16 | ret | reti => rfl
  case ldA16A | ldAA16 | ldA16Sp | callA16 => rfl
  case rlcHl | rrcHl | rlHl | rrHl | slaHl | sraHl | swapHl | srlHl => rfl
  -- A register.
  case incR r | decR r | addR r | adcR r | subR r | sbcR r | andR r | xorR r | orR r | cpR r | ldRD8 r _ | ldRHl r |
    ldHlR r | rlcR r | rrcR r | rlR r | rrR r | slaR r | sraR r | swapR r | srlR r =>
    cases r with
    | f => cases hwf
    | _ => rfl
  case ldRR dst src =>
    cases dst with
    | f => cases hwf
    | _ =>
      cases src with
      | f => cases hwf
      | _ => rfl
  -- A pair.
  case ldRrD16 rr _ | addHlRr rr | incRr rr | decRr rr | pushRr rr => cases rr <;> rfl
  case popRr rr =>
    cases rr with
    | sp | af => cases hwf
    | _ => rfl
  -- A bit number, with a register or `(HL)`.
  case bitBR b r => cases r with
    | f => cases hwf
    | _ => exact defaultCyclesCb_entry 1 b _
  case resBR b r => cases r with
    | f => cases hwf
    | _ => exact defaultCyclesCb_entry 2 b _
  case setBR b r => cases r with
    | f => cases hwf
    | _ => exact defaultCyclesCb_entry 3 b _
  case bitBHl b => exact defaultCyclesCb_entry 1 b 6
  case resBHl b => exact defaultCyclesCb_entry 2 b 6
  case setBHl b => exact defaultCyclesCb_entry 3 b 6
  case rstN n => rcases rotIndex_cases n with rfl | rfl | rfl | rfl | rfl | rfl | rfl | rfl <;> rfl
  -- A condition.
  case jpCcA16 cc _ | jrCcE8 cc _ | callCcA16 cc _ | retCc cc =>
    exact ite_congr rfl (fun _ => by cases cc <;> rfl) fun _ => by cases cc <;> rfl
  -- The escape and the undefined opcodes.
  all_goals rfl

/-- What an instruction that completes costs by default is a number of the grids. -/
theorem rowCost_bounds {i : Instr} (hi : i ≠ .prefixCb) {s t : State} (h : exec i s = .next t) (f : Flags) :
    rowCost i f % 4 = 0 ∧ 4 ≤ rowCost i f ∧ rowCost i f ≤ 24 := by
  cases i
  case prefixCb => exact absurd rfl hi
  case undefinedD3 | undefinedDB | undefinedDD | undefinedE3 | undefinedE4 | undefinedEB | undefinedEC | undefinedED |
    undefinedF4 | undefinedFC | undefinedFD => cases h
  case jpCcA16 cc _ | jrCcE8 cc _ | callCcA16 cc _ | retCc cc =>
    simp only [rowCost]
    split <;> decide
  all_goals simp [rowCost]

/-- Settles O47: the cost an instruction ends with is the table's entry, and the default tables are the grids. -/
theorem costsFollowTheCostTable : Obligations.CostsFollowTheCostTable := by
  intro i s t hi hwf h
  obtain ⟨-, hcost⟩ := (exec_runs hi s).next h
  refine ⟨hcost.trans (costEntry_eq i s), fun hdefault => ?_⟩
  rw [hdefault, defaultCost_eq_rowCost hwf] at hcost
  rw [hcost]
  exact ⟨rfl, rowCost_bounds hi h _⟩

/-! ### Stores (R82, R118) -/

/-- What no store to plain storage changes: the devices, the host's side, the I/O bytes, the palettes, and of the Bus's
registers all but the dirty flag. -/
def BusKept (s t : State) : Prop :=
  t.timer = s.timer ∧ t.ppu = s.ppu ∧ t.hdma = s.hdma ∧ t.host = s.host ∧ t.mem.io = s.mem.io ∧
    t.mem.bgpal = s.mem.bgpal ∧ t.mem.objpal = s.mem.objpal ∧ t.ctl = { s.ctl with eramDirty := t.ctl.eramDirty }

theorem BusKept.trans {s t u : State} (h : BusKept s t) (h' : BusKept t u) : BusKept s u := by
  obtain ⟨h1, h2, h3, h4, h5, h6, h7, h8⟩ := h
  obtain ⟨h1', h2', h3', h4', h5', h6', h7', h8'⟩ := h'
  refine ⟨h1'.trans h1, h2'.trans h2, h3'.trans h3, h4'.trans h4, h5'.trans h5, h6'.trans h6, h7'.trans h7, ?_⟩
  rw [h8', h8]

theorem busKept_onlyCpu {s t : State} (h : OnlyCpu s t) : BusKept s t := by
  rw [h]
  exact ⟨rfl, rfl, rfl, rfl, rfl, rfl, rfl, rfl⟩

theorem busKept_writeByte {s t : State} {addr : Word} {v : Byte} (hp : plainAt s addr = true)
    (h : writeByte s addr v = .ok () t) : BusKept s t := by
  rcases writeByte_cases h with ⟨⟨_, hl⟩ | ⟨_, hl⟩, -⟩ | ⟨_, -, rfl⟩ | ⟨_, -, rfl⟩ | ⟨_, -, rfl⟩ | ⟨_, -, rfl⟩ |
    ⟨_, hl, -⟩ | ⟨_, -, rfl⟩ | ⟨-, rfl⟩
  case inl.inl | inl.inr | inr.inr.inr.inr.inr.inl => simp [plainAt, hl] at hp
  all_goals exact ⟨rfl, rfl, rfl, rfl, rfl, rfl, rfl, rfl⟩

/-- Stores to plain storage change the bytes they go to. -/
theorem storesAt_plain {as : List Word} {s t : State} (h : StoresAt as s t) (hc : s.mem.canonical = true)
    (hp : ∀ a ∈ as, plainAt s a = true) :
    (∀ addr, (∀ a ∈ as, locate s addr ≠ locate s a) → readByte t addr = readByte s addr) ∧ BusKept s t := by
  induction as generalizing s with
  | nil => exact ⟨fun addr _ => readByte_onlyCpu h addr, busKept_onlyCpu h⟩
  | cons a as ih =>
    obtain ⟨s1, v, u, h1, hw, h3⟩ := h
    have hpa : plainAt s1 a = true := (plainAt_onlyCpu h1 a).trans (hp a (by simp))
    have hc1 : s1.mem.canonical = true := h1.mem ▸ hc
    have hloc1 (x : Word) : locate s1 x = locate s x := by
      rw [h1]
      rfl
    have hloc (x : Word) : locate u x = locate s x := (locate_writeByte_plain hpa hw x).trans (hloc1 x)
    have hplain : ∀ b ∈ as, plainAt u b = true := fun b hb => by
      rw [plainAt, hloc]
      exact hp b (by simp [hb])
    obtain ⟨hread, hbus⟩ := ih h3 (writeByte_canonical hw hc1) hplain
    refine ⟨fun addr hne => ?_, (busKept_onlyCpu h1).trans ((busKept_writeByte hpa hw).trans hbus)⟩
    rw [hread addr fun b hb => by rw [hloc, hloc]; exact hne b (by simp [hb]),
      readByte_writeByte_plain_other hc1 hpa hw (by rw [hloc1, hloc1]; exact hne a (by simp)), readByte_onlyCpu h1]

/-- An I/O write that is not a copy leaves video RAM and OAM alone. -/
theorem ioWrite_vram_oam {n : Nat} {v : Byte} {s t : State} (h : ioWrite n v s = .ok () t) (h46 : n ≠ 0x46)
    (h55 : n ≠ 0x55) : t.mem.vram = s.mem.vram ∧ t.mem.oam = s.mem.oam := by
  rcases ioWrite_cases h with ⟨-, rfl⟩ | ⟨-, rfl⟩ | ⟨-, rfl⟩ | ⟨-, rfl⟩ | ⟨-, rfl⟩ | ⟨-, rfl⟩ | ⟨-, rfl⟩ | ⟨hn, -⟩ |
    ⟨-, rfl⟩ | ⟨-, -, rfl⟩ | ⟨-, hn, -⟩ | ⟨-, -, rfl⟩ | ⟨-, -, rfl⟩ | ⟨-, -, -, -, -, -, -, -, -, -, rfl⟩
  case inr.inl =>
    rw [sbWrite_eq]
    exact ⟨rfl, rfl⟩
  case inr.inr.inr.inl =>
    rw [lcdcWrite_frame]
    exact ⟨rfl, rfl⟩
  case inr.inr.inr.inr.inr.inr.inl =>
    rw [lycWrite, coincidenceCheck_frame]
    exact ⟨rfl, rfl⟩
  case inr.inr.inr.inr.inr.inr.inr.inl => exact absurd hn h46
  case inr.inr.inr.inr.inr.inr.inr.inr.inr.inr.inl => exact absurd hn h55
  all_goals exact ⟨rfl, rfl⟩

/-- A write that goes to neither DMA register changes no byte of plain storage but the one it goes to. -/
theorem readLoc_writeByte_other {s t : State} {addr : Word} {v : Byte} (hc : s.mem.canonical = true)
    (h : writeByte s addr v = .ok () t) (h46 : addr ≠ 0xFF46) (h55 : addr ≠ 0xFF55) {loc : Loc}
    (hloc : plainPlace loc = true) (hne : loc ≠ locate s addr) : readLoc t loc = readLoc s loc := by
  by_cases hp : plainAt s addr = true
  · exact readLoc_writeByte_plain_other hc hp h hne
  have hmem : t.mem.vram = s.mem.vram ∧ t.mem.eram = s.mem.eram ∧ t.mem.wram = s.mem.wram ∧ t.mem.oam = s.mem.oam ∧
      t.mem.hram = s.mem.hram ∧ t.mem.ie = s.mem.ie := by
    rcases writeByte_cases h with ⟨-, rfl⟩ | ⟨_, hl, -⟩ | ⟨_, hl, -⟩ | ⟨_, hl, -⟩ | ⟨_, hl, -⟩ | ⟨n, hl, hio⟩ |
      ⟨_, hl, -⟩ | ⟨hl, -⟩
    case inl =>
      rw [bankWrite_frame]
      exact ⟨rfl, rfl, rfl, rfl, rfl, rfl⟩
    case inr.inr.inr.inr.inr.inl =>
      obtain ⟨rfl, hn⟩ := locate_eq_io hl
      obtain ⟨-, -, -, -, -, heram, hwram, hhram, hie, -⟩ := ioWrite_frame hio
      obtain ⟨hvram, hoam⟩ := ioWrite_vram_oam hio (by rintro rfl; exact h46 rfl) (by rintro rfl; exact h55 rfl)
      exact ⟨hvram, heram, hwram, hoam, hhram, hie⟩
    all_goals exact absurd (by simp [plainAt, hl]) hp
  obtain ⟨hvram, heram, hwram, hoam, hhram, hie⟩ := hmem
  cases loc
  case vram => rw [readLoc, readLoc, hvram]
  case eram => rw [readLoc, readLoc, heram]
  case wram => rw [readLoc, readLoc, hwram]
  case oam => rw [readLoc, readLoc, hoam]
  case hram => rw [readLoc, readLoc, hhram]
  case ie => rw [readLoc, readLoc, hie]
  all_goals cases hloc

/-- Settles O48: an instruction's stores go to the addresses its rule names, in that order. -/
theorem storesChangeOnlyTheirBytes : Obligations.StoresChangeOnlyTheirBytes := by
  intro i s t hc hi h
  obtain ⟨hstores, -⟩ := (exec_runs hi s).next h
  refine ⟨fun hp => storesAt_plain hstores hc hp, fun a ha h46 h55 loc hloc hne => ?_⟩
  rw [ha] at hstores
  obtain ⟨s1, v, u, h1, hw, hu⟩ := hstores
  have hcpu {x y : State} (hxy : OnlyCpu x y) : readLoc y loc = readLoc x loc := by
    rw [hxy]
    rfl
  have hc1 : s1.mem.canonical = true := h1.mem ▸ hc
  have hplace : locate s1 a = locate s a := by
    rw [h1]
    rfl
  rw [hcpu hu, readLoc_writeByte_other hc1 hw h46 h55 hloc (hplace ▸ hne), hcpu h1]



end Sys2Proof.Claims
end

section
/-! PROOFS. What every instruction leaves of the registers and the flags (R74), and the enables and the controller along a
step. -/

namespace Sys2Proof.Claims

open Sys2Proof.Machine

/-! ### Registers -/

/-- Only the named 8-bit registers, the flags, the cost and, where the two bits say so, `SP` and `pc` differ between the
Processors of the two states. -/
def RegsKept (s t : State) (regs : List Reg8) (sp pc : Bool) : Prop :=
  (∀ r, r ≠ .f → r ∉ regs → reg8 t r = reg8 s r) ∧ (sp = false → t.cpu.sp = s.cpu.sp) ∧
    (pc = false → t.cpu.pc = s.cpu.pc) ∧ t.cpu.ime = s.cpu.ime ∧ t.cpu.imePending = s.cpu.imePending ∧
    t.cpu.halt = s.cpu.halt ∧ t.cpu.stop = s.cpu.stop ∧ t.cpu.cycT = s.cpu.cycT

theorem registerFrame.regsKept {s t : State} {regs : List Reg8} {sp pc : Bool} (h : registerFrame s t regs sp pc) :
    RegsKept s t regs sp pc := h.2.2

theorem RegsKept.trans {s t u : State} {regs regs' : List Reg8} {sp sp' pc pc' : Bool} (h : RegsKept s t regs sp pc)
    (h' : RegsKept t u regs' sp' pc') : RegsKept s u (regs ++ regs') (sp || sp') (pc || pc') := by
  obtain ⟨hr, hsp, hpc, h4, h5, h6, h7, h8⟩ := h
  obtain ⟨hr', hsp', hpc', h4', h5', h6', h7', h8'⟩ := h'
  refine ⟨fun r hf hn => ?_, fun hb => ?_, fun hb => ?_, h4'.trans h4, h5'.trans h5, h6'.trans h6, h7'.trans h7,
    h8'.trans h8⟩
  · rw [List.mem_append, not_or] at hn
    exact (hr' r hf hn.2).trans (hr r hf hn.1)
  · rw [Bool.or_eq_false_iff] at hb
    exact (hsp' hb.2).trans (hsp hb.1)
  · rw [Bool.or_eq_false_iff] at hb
    exact (hpc' hb.2).trans (hpc hb.1)

theorem reg8_congr {s t : State} (h : t.cpu = s.cpu) (r : Reg8) : reg8 t r = reg8 s r := by
  cases r <;> simp only [reg8, h]

theorem reg8_of_control {s t : State} {sp pc : Word} {ime pending halt stop : Bool} {cost : Nat}
    (h : t.cpu = { s.cpu with
      sp := sp, pc := pc, ime := ime, imePending := pending, halt := halt, stop := stop, cycI := cost }) (r : Reg8) :
    reg8 t r = reg8 s r := by
  unfold reg8
  rw [h]

theorem regsKept_of_cpu {s t : State} (h : t.cpu = s.cpu) : RegsKept s t [] false false :=
  ⟨fun r _ _ => reg8_congr h r, fun _ => by rw [h], fun _ => by rw [h], by rw [h], by rw [h], by rw [h], by rw [h],
    by rw [h]⟩

theorem regsKept_setCost (n : Nat) (s : State) : RegsKept s (setCost n s) [] false false :=
  ⟨fun r _ _ => reg8_setCost n s r, fun _ => rfl, fun _ => rfl, rfl, rfl, rfl, rfl, rfl⟩

theorem regsKept_setFlags (f : Flags) (s : State) : RegsKept s (setFlags f s) [] false false :=
  ⟨fun _ hf _ => reg8_setFlags hf f s, fun _ => rfl, fun _ => rfl, rfl, rfl, rfl, rfl, rfl⟩

theorem regsKept_setPc (v : Word) (s : State) : RegsKept s (setPc v s) [] false true :=
  ⟨fun r _ _ => by cases r <;> rfl, fun _ => rfl, nofun, rfl, rfl, rfl, rfl, rfl⟩

theorem regsKept_setSp (v : Word) (s : State) : RegsKept s (setReg16 .sp v s) [] true false :=
  ⟨fun r _ _ => by cases r <;> rfl, nofun, fun _ => rfl, rfl, rfl, rfl, rfl, rfl⟩

theorem regsKept_setReg8 (r : Reg8) (v : Byte) (s : State) : RegsKept s (setReg8 r v s) [r] false false :=
  (registerFrame_setReg8 r v s).regsKept

theorem regsKept_setReg16 (rr : Reg16) (v : Word) (s : State) :
    RegsKept s (setReg16 rr v s) (registersWritten (.ldRrD16 rr v)) (rr == .sp) false :=
  (registerFrame_setReg16 rr v s).regsKept

theorem RegsKept.setFlags {s t : State} {regs : List Reg8} {sp pc : Bool} (h : RegsKept s t regs sp pc) (f : Flags) :
    RegsKept s (setFlags f t) regs sp pc := by
  simpa using h.trans (regsKept_setFlags f t)

theorem RegsKept.setCost {s t : State} {regs : List Reg8} {sp pc : Bool} (h : RegsKept s t regs sp pc) (n : Nat) :
    RegsKept s (setCost n t) regs sp pc := by
  simpa using h.trans (regsKept_setCost n t)

/-- After a push `SP` is all that differs. -/
theorem regsKept_push {v : Word} {s t : State} (h : push16 v s = .ok () t) : RegsKept s t [] true false :=
  (regsKept_setSp (s.cpu.sp - 2) s).trans (regsKept_of_cpu (push16_cpu h))

theorem regsKept_pop {v : Word} {s t : State} (h : pop16 s = .ok v t) : RegsKept s t [] true false := by
  obtain ⟨_, _, -, -, -, rfl⟩ := pop16_ok h
  exact regsKept_setSp (s.cpu.sp + 2) s

theorem writeWord_cpu {a w : Word} {s t : State} (h : writeWord s a w = .ok () t) : t.cpu = s.cpu := by
  unfold writeWord at h
  split at h
  · cases h
  · next hu => rw [(writeByte_frame h).2.1, (writeByte_frame hu).2.1]

section
variable {i : Instr} {s : State} {regs : List Reg8} {sp pc : Bool}

/-- The instruction ends with the registers kept. -/
def EndsKept (s : State) (regs : List Reg8) (sp pc : Bool) (o : Out) : Prop := Ends (RegsKept s · regs sp pc) o

theorem kept_done {u : State} (h : RegsKept s u regs sp pc) : EndsKept s regs sp pc (done i u) := h.setCost _

theorem kept_doneTaken {u : State} (h : RegsKept s u regs sp pc) : EndsKept s regs sp pc (doneTaken i u) := h.setCost _

theorem kept_read {addr : Word} {k : Byte → Out} (h : ∀ v, EndsKept s regs sp pc (k v)) :
    EndsKept s regs sp pc (withRead addr s k) := ends_read h

theorem kept_write {addr : Word} {v : Byte} {k : State → Out}
    (h : ∀ u, RegsKept s u [] false false → EndsKept s regs sp pc (k u)) :
    EndsKept s regs sp pc (withWrite addr v s k) :=
  ends_afterBus fun _ u hu => h u (regsKept_of_cpu (writeByte_frame hu).2.1)

theorem kept_push {v : Word} {k : Unit → State → Out}
    (h : ∀ u, RegsKept s u [] true false → EndsKept s regs sp pc (k () u)) :
    EndsKept s regs sp pc (afterBus (push16 v s) k) :=
  ends_afterBus fun _ u hu => h u (regsKept_push hu)

theorem kept_pop {k : Word → State → Out}
    (h : ∀ v u, RegsKept s u [] true false → EndsKept s regs sp pc (k v u)) :
    EndsKept s regs sp pc (afterBus (pop16 s) k) :=
  ends_afterBus fun v u hu => h v u (regsKept_pop hu)

theorem kept_if {c : Bool} {o o' : Out} (h : EndsKept s regs sp pc o) (h' : EndsKept s regs sp pc o') :
    EndsKept s regs sp pc (if c then o else o') := by
  cases c
  · exact h'
  · exact h

theorem kept_shiftHl {f : Byte → Byte × Bool} : EndsKept s [] false false (shiftHl i f s) :=
  kept_read fun _ => kept_write fun _ h => kept_done (h.setFlags _)

theorem kept_modifyHl {f : Byte → Byte} : EndsKept s [] false false (modifyHl i f s) :=
  kept_read fun _ => kept_write fun _ h => kept_done h

end

theorem RegsKept.mono {s t : State} {regs : List Reg8} {sp pc sp' pc' : Bool} (h : RegsKept s t regs sp pc)
    (hsp : sp = true → sp' = true) (hpc : pc = true → pc' = true) : RegsKept s t regs sp' pc' := by
  obtain ⟨hr, h2, h3, hrest⟩ := h
  refine ⟨hr, fun hb => h2 ?_, fun hb => h3 ?_, hrest⟩
  · cases sp with
    | false => rfl
    | true => exact absurd (hsp rfl) (by simp [hb])
  · cases pc with
    | false => rfl
    | true => exact absurd (hpc rfl) (by simp [hb])

/-- Every instruction that is no control of the Processor keeps the registers its rule does not write. -/
theorem exec_regsKept {i : Instr} (hcb : i ≠ .prefixCb) (hdi : i ≠ .di) (hei : i ≠ .ei) (hreti : i ≠ .reti)
    (hhalt : i ≠ .halt) (hstop : ∀ b, i ≠ .stop b) (s : State) :
    EndsKept s (registersWritten i) (writesSp i) (writesPc i) (exec i s) := by
  have hs := regsKept_of_cpu (s := s) rfl
  cases i
  case prefixCb => exact absurd rfl hcb
  case di => exact absurd rfl hdi
  case ei => exact absurd rfl hei
  case reti => exact absurd rfl hreti
  case halt => exact absurd rfl hhalt
  case stop => exact absurd rfl (hstop _)
  case nop => exact kept_done hs
  -- An 8-bit register.
  case ldRR | ldRD8 | resBR | setBR => exact kept_done (regsKept_setReg8 _ _ _)
  case ldRHl | ldABc | ldADe | ldAA16 | ldhAC | ldhAA8 => exact kept_read fun _ => kept_done (regsKept_setReg8 _ _ _)
  case ldAHli | ldAHld =>
    exact kept_read fun _ => kept_done ((regsKept_setReg8 _ _ _).trans (regsKept_setReg16 .hl _ _))
  -- An 8-bit register and flags, or flags alone.
  case incR | decR | rlcR | rrcR | rlR | rrR | slaR | sraR | swapR | srlR | rlca | rrca | rla | rra | daa | cpl =>
    exact kept_done ((regsKept_setReg8 _ _ _).setFlags _)
  case addR | adcR | subR | sbcR | andR | xorR | orR | addD8 | adcD8 | subD8 | sbcD8 | andD8 | xorD8 | orD8 =>
    exact kept_done ((regsKept_setReg8 _ _ _).setFlags _)
  case addHl | adcHl | subHl | sbcHl | andHl | xorHl | orHl =>
    exact kept_read fun _ => kept_done ((regsKept_setReg8 _ _ _).setFlags _)
  case cpR | cpD8 | bitBR | scf | ccf => exact kept_done (hs.setFlags _)
  case cpHl | bitBHl => exact kept_read fun _ => kept_done (hs.setFlags _)
  -- A pair or `SP`.
  case ldRrD16 rr _ | incRr rr | decRr rr => cases rr <;> exact kept_done (regsKept_setReg16 _ _ _)
  case ldSpHl => exact kept_done (regsKept_setSp _ _)
  case addSpE8 => exact kept_done ((regsKept_setSp _ _).setFlags _)
  case addHlRr | ldHlSpE8 => exact kept_done ((regsKept_setReg16 .hl _ _).setFlags _)
  -- Stores.
  case ldHlR | ldHlD8 | ldBcA | ldDeA | ldA16A | ldhCA | ldhA8A => exact kept_write fun _ h => kept_done h
  case ldHliA | ldHldA => exact kept_write fun _ h => kept_done (h.trans (regsKept_setReg16 .hl _ _))
  case incHl | decHl => exact kept_read fun _ => kept_write fun _ h => kept_done (h.setFlags _)
  case rlcHl | rrcHl | rlHl | rrHl | slaHl | sraHl | swapHl | srlHl => exact kept_shiftHl
  case resBHl | setBHl => exact kept_modifyHl
  case ldA16Sp => exact ends_afterBus fun _ _ hu => kept_done (regsKept_of_cpu (writeWord_cpu hu))
  -- The stack.
  case pushRr => exact kept_push fun _ h => kept_done h
  case popAf => exact kept_pop fun _ _ h => kept_done (h.trans (regsKept_setReg16 .af _ _))
  case popRr rr => cases rr <;> exact kept_pop fun _ _ h => kept_done (h.trans (regsKept_setReg16 _ _ _))
  -- Transfers.
  case jpA16 | jpHl | jrE8 => exact kept_done (regsKept_setPc _ _)
  case jpCcA16 | jrCcE8 => exact kept_if (kept_doneTaken (regsKept_setPc _ _)) (kept_done (hs.mono id nofun))
  case callA16 | rstN => exact kept_push fun _ h => kept_done (h.trans (regsKept_setPc _ _))
  case callCcA16 =>
    exact kept_if (kept_push fun _ h => kept_doneTaken (h.trans (regsKept_setPc _ _))) (kept_done (hs.mono nofun nofun))
  case ret => exact kept_pop fun _ _ h => kept_done (h.trans (regsKept_setPc _ _))
  case retCc =>
    exact kept_if (kept_pop fun _ _ h => kept_doneTaken (h.trans (regsKept_setPc _ _))) (kept_done (hs.mono nofun nofun))
  case undefinedD3 | undefinedDB | undefinedDD | undefinedE3 | undefinedE4 | undefinedEB | undefinedEC | undefinedED |
    undefinedF4 | undefinedFC | undefinedFD => exact ends_fatal _ s

/-- The instructions that set a control flag (R320, R331 to R334), by their whole effect on the Processor. -/
theorem exec_control_cpu {s t : State} :
    (exec .di s = .next t → t.cpu = { s.cpu with ime := false, imePending := false, cycI := t.cpu.cycI }) ∧
      (exec .ei s = .next t → t.cpu = { s.cpu with imePending := true, cycI := t.cpu.cycI }) ∧
      (exec .halt s = .next t → t.cpu = { s.cpu with halt := true, cycI := t.cpu.cycI }) ∧
      (∀ b, exec (.stop b) s = .next t → t.cpu = { s.cpu with stop := true, cycI := t.cpu.cycI }) ∧
      (exec .reti s = .next t →
        t.cpu = { s.cpu with
          sp := t.cpu.sp, pc := t.cpu.pc, ime := true, imePending := false, cycI := t.cpu.cycI }) := by
  refine ⟨fun h => ?_, fun h => ?_, fun h => ?_, fun b h => ?_, fun h => ?_⟩
  iterate 4
    · cases h
      rfl
  · obtain ⟨_, u, hu, hk⟩ := afterBus_next.mp h
    unfold returnFromInterrupt at hu
    split at hu
    · cases hu
    · next hw =>
      obtain ⟨_, _, -, -, -, rfl⟩ := pop16_ok hw
      cases hu
      cases hk
      rfl

/-- No instruction touches the Scheduler or the latch. -/
theorem exec_sched_fault {i : Instr} {s t : State} (h : exec i s = .next t) :
    t.sched = s.sched ∧ t.fault = s.fault := by
  have hP : KeptByStores fun u => u.sched = s.sched ∧ u.fault = s.fault := {
    cpu := fun _ _ hu hs => by
      rw [hu]
      exact hs
    write := fun _ _ _ _ hu hs => by
      obtain ⟨-, -, hsched, hfault, -⟩ := writeByte_frame hu
      rw [hsched, hfault]
      exact hs }
  exact hP.exec h ⟨rfl, rfl⟩

/-- Settles O45: the five instructions that set a control flag by their effect, the others by their frames. -/
theorem registersNotNamedAreKept : Obligations.RegistersNotNamedAreKept := by
  intro i s t hi h
  obtain ⟨hsched, hfault⟩ := exec_sched_fault h
  have hsetup := exec_setup h
  by_cases hc : i ≠ .di ∧ i ≠ .ei ∧ i ≠ .reti ∧ i ≠ .halt ∧ ∀ b, i ≠ .stop b
  · obtain ⟨hndi, hnei, hnreti, hnhalt, hnstop⟩ := hc
    obtain ⟨hr, hsp, hpc, h4, h5, h6, h7, h8⟩ := (exec_regsKept hi hndi hnei hnreti hnhalt hnstop s).next h
    exact ⟨hr, hsp, hpc, fun _ _ => h4, fun _ _ _ => h5, fun _ => h6, fun _ => h7, h8, hsetup, hsched, hfault⟩
  · obtain ⟨hdi, hei, hhalt, hstop, hreti⟩ := exec_control_cpu (s := s) (t := t)
    have hctl : i = .di ∨ i = .ei ∨ i = .reti ∨ i = .halt ∨ ∃ b, i = .stop b := by
      by_contra hn
      simp only [not_or, not_exists] at hn
      exact hc hn
    obtain rfl | rfl | rfl | rfl | ⟨b, rfl⟩ := hctl
    · exact ⟨fun r _ _ => reg8_of_control (hdi h) r, fun _ => by rw [hdi h], fun _ => by rw [hdi h],
        fun hn => absurd rfl hn, fun hn => absurd rfl hn, fun _ => by rw [hdi h], fun _ => by rw [hdi h], by rw [hdi h],
        hsetup, hsched, hfault⟩
    · exact ⟨fun r _ _ => reg8_of_control (hei h) r, fun _ => by rw [hei h], fun _ => by rw [hei h],
        fun _ _ => by rw [hei h], fun _ hn => absurd rfl hn, fun _ => by rw [hei h], fun _ => by rw [hei h], by rw [hei h],
        hsetup, hsched, hfault⟩
    · exact ⟨fun r _ _ => reg8_of_control (hreti h) r, nofun, nofun, fun _ hn => absurd rfl hn,
        fun _ _ hn => absurd rfl hn, fun _ => by rw [hreti h], fun _ => by rw [hreti h], by rw [hreti h],
        hsetup, hsched, hfault⟩
    · exact ⟨fun r _ _ => reg8_of_control (hhalt h) r, fun _ => by rw [hhalt h], fun _ => by rw [hhalt h],
        fun _ _ => by rw [hhalt h], fun _ _ _ => by rw [hhalt h], fun hn => absurd rfl hn, fun _ => by rw [hhalt h],
        by rw [hhalt h], hsetup, hsched, hfault⟩
    · exact ⟨fun r _ _ => reg8_of_control (hstop b h) r, fun _ => by rw [hstop b h], fun _ => by rw [hstop b h],
        fun _ _ => by rw [hstop b h], fun _ _ _ => by rw [hstop b h], fun _ => by rw [hstop b h],
        fun hn => absurd rfl (hn b), by rw [hstop b h], hsetup, hsched, hfault⟩

end Sys2Proof.Claims
end

section
/-! PROOFS. The flag table of R74 over every instruction, and decimal arithmetic by `DAA` (R244). -/

namespace Sys2Proof.Claims

open Sys2Proof.Machine

/-! ### The flag table -/

/-- The four flags before and after agree with a row of R74. -/
def FlagsAgree (row : FlagEffect × FlagEffect × FlagEffect × FlagEffect) (before after : Flags) : Prop :=
  flagAgrees row.1 before.z after.z ∧ flagAgrees row.2.1 before.n after.n ∧ flagAgrees row.2.2.1 before.h after.h ∧
    flagAgrees row.2.2.2 before.c after.c

section
variable {i : Instr} {s : State} {row : FlagEffect × FlagEffect × FlagEffect × FlagEffect}

/-- The instruction ends with the flags as the row says. -/
def EndsFlags (row : FlagEffect × FlagEffect × FlagEffect × FlagEffect) (s : State) (o : Out) : Prop :=
  Ends (fun t => FlagsAgree row s.cpu.flags t.cpu.flags) o

/-- The instruction ends with the flags as they were. -/
def KeepsFlags (s : State) (o : Out) : Prop := EndsFlags (.kept, .kept, .kept, .kept) s o

theorem flags_done {u : State} (h : FlagsAgree row s.cpu.flags u.cpu.flags) : EndsFlags row s (done i u) := h

theorem flags_write {addr : Word} {v : Byte} {k : State → Out}
    (h : ∀ u, u.cpu = s.cpu → EndsFlags row s (k u)) : EndsFlags row s (withWrite addr v s k) :=
  ends_afterBus fun _ u hu => h u (writeByte_frame hu).2.1

theorem keepsFlags_done {u : State} (h : u.cpu.flags = s.cpu.flags) : KeepsFlags s (done i u) := by
  show FlagsAgree _ s.cpu.flags u.cpu.flags
  rw [h]
  exact ⟨rfl, rfl, rfl, rfl⟩

theorem keepsFlags_doneTaken {u : State} (h : u.cpu.flags = s.cpu.flags) : KeepsFlags s (doneTaken i u) :=
  keepsFlags_done (i := i) h

theorem keepsFlags_write {addr : Word} {v : Byte} {k : State → Out}
    (h : ∀ u, u.cpu.flags = s.cpu.flags → KeepsFlags s (k u)) : KeepsFlags s (withWrite addr v s k) :=
  flags_write fun u hu => h u (by rw [hu])

theorem keepsFlags_push {v : Word} {k : Unit → State → Out}
    (h : ∀ u, u.cpu.flags = s.cpu.flags → KeepsFlags s (k () u)) : KeepsFlags s (afterBus (push16 v s) k) :=
  ends_afterBus fun _ u hu => h u (by rw [push16_cpu hu])

theorem pop16_flags {v : Word} {u : State} (h : pop16 s = .ok v u) : u.cpu.flags = s.cpu.flags := by
  obtain ⟨_, _, -, -, -, rfl⟩ := pop16_ok h
  rfl

theorem keepsFlags_pop {k : Word → State → Out}
    (h : ∀ v u, u.cpu.flags = s.cpu.flags → KeepsFlags s (k v u)) : KeepsFlags s (afterBus (pop16 s) k) :=
  ends_afterBus fun v u hu => h v u (pop16_flags hu)

theorem keepsFlags_if {c : Bool} {o o' : Out} (h : KeepsFlags s o) (h' : KeepsFlags s o') :
    KeepsFlags s (if c then o else o') := by
  cases c
  · exact h'
  · exact h

theorem keepsFlags_modifyHl {f : Byte → Byte} : KeepsFlags s (modifyHl i f s) :=
  ends_read fun _ => keepsFlags_write fun _ h => keepsFlags_done h

theorem flags_shiftHl {f : Byte → Byte × Bool} (h : ∀ v, FlagsAgree row s.cpu.flags (shiftFlags (f v))) :
    EndsFlags row s (shiftHl i f s) :=
  ends_read fun v => flags_write fun _ _ => flags_done (h v)

end

/-- Every instruction but the escape treats the flags as R74 says. -/
theorem exec_flagsAgree {i : Instr} (hcb : i ≠ .prefixCb) (hwf : i.wf = true) (s : State) :
    EndsFlags (flagEffects i) s (exec i s) := by
  cases i
  case prefixCb => exact absurd rfl hcb
  -- The flags computed.
  case addR | adcR | subR | sbcR | addD8 | adcD8 | subD8 | sbcD8 | cpR | cpD8 =>
    exact flags_done ⟨trivial, rfl, trivial, trivial⟩
  case andR | xorR | orR | andD8 | xorD8 | orD8 => exact flags_done ⟨trivial, rfl, rfl, rfl⟩
  case addHl | adcHl | subHl | sbcHl | cpHl => exact ends_read fun _ => flags_done ⟨trivial, rfl, trivial, trivial⟩
  case andHl | xorHl | orHl => exact ends_read fun _ => flags_done ⟨trivial, rfl, rfl, rfl⟩
  case incR | decR => exact flags_done ⟨trivial, rfl, trivial, rfl⟩
  case incHl | decHl => exact ends_read fun _ => flags_write fun _ _ => flags_done ⟨trivial, rfl, trivial, rfl⟩
  case daa => exact flags_done ⟨trivial, daa8_n _ _, daa8_h _ _, trivial⟩
  case cpl | scf => exact flags_done ⟨rfl, rfl, rfl, rfl⟩
  case ccf => exact flags_done ⟨rfl, rfl, rfl, trivial⟩
  case addHlRr => exact flags_done ⟨rfl, rfl, trivial, trivial⟩
  case addSpE8 | ldHlSpE8 => exact flags_done ⟨rfl, rfl, trivial, trivial⟩
  case rlca | rrca | rla | rra => exact flags_done ⟨rfl, rfl, rfl, trivial⟩
  case rlcR | rrcR | rlR | rrR | slaR | sraR | srlR => exact flags_done ⟨trivial, rfl, rfl, trivial⟩
  case swapR => exact flags_done ⟨trivial, rfl, rfl, rfl⟩
  case rlcHl | rrcHl | rlHl | rrHl | slaHl | sraHl | srlHl => exact flags_shiftHl fun _ => ⟨trivial, rfl, rfl, trivial⟩
  case swapHl => exact flags_shiftHl fun _ => ⟨trivial, rfl, rfl, rfl⟩
  case bitBR => exact flags_done ⟨trivial, rfl, rfl, rfl⟩
  case bitBHl => exact ends_read fun _ => flags_done ⟨trivial, rfl, rfl, rfl⟩
  case popAf => exact ends_afterBus fun _ _ _ => flags_done ⟨trivial, trivial, trivial, trivial⟩
  -- The flags kept: a register written, which is not `F`.
  case ldRR =>
    rw [Instr.wf, Bool.and_eq_true] at hwf
    exact keepsFlags_done (setReg8_cpu_flags (ne_f_of_nameable hwf.1) _ _)
  case ldRD8 | resBR | setBR => exact keepsFlags_done (setReg8_cpu_flags (ne_f_of_nameable hwf) _ _)
  case ldRHl => exact ends_read fun _ => keepsFlags_done (setReg8_cpu_flags (ne_f_of_nameable hwf) _ _)
  case ldRrD16 rr _ | incRr rr | decRr rr =>
    exact keepsFlags_done (setReg16_cpu_flags (rr := rr) (by rintro rfl; cases hwf) _ _)
  case popRr rr =>
    exact keepsFlags_pop fun _ _ h =>
      keepsFlags_done ((setReg16_cpu_flags (rr := rr) (by rintro rfl; cases hwf) _ _).trans h)
  case ldABc | ldADe | ldAA16 | ldhAC | ldhAA8 | ldAHli | ldAHld => exact ends_read fun _ => keepsFlags_done rfl
  case nop | di | ei | halt | stop | ldSpHl | jpA16 | jpHl | jrE8 => exact keepsFlags_done rfl
  -- The flags kept: stores and the stack.
  case ldHlR | ldHlD8 | ldBcA | ldDeA | ldA16A | ldhCA | ldhA8A | ldHliA | ldHldA =>
    exact keepsFlags_write fun _ h => keepsFlags_done h
  case resBHl | setBHl => exact keepsFlags_modifyHl
  case ldA16Sp => exact ends_afterBus fun _ _ hu => keepsFlags_done (by rw [writeWord_cpu hu])
  case pushRr | callA16 | rstN => exact keepsFlags_push fun _ h => keepsFlags_done h
  case ret => exact keepsFlags_pop fun _ _ h => keepsFlags_done h
  case jpCcA16 | jrCcE8 => exact keepsFlags_if (keepsFlags_doneTaken rfl) (keepsFlags_done rfl)
  case callCcA16 => exact keepsFlags_if (keepsFlags_push fun _ h => keepsFlags_doneTaken h) (keepsFlags_done rfl)
  case retCc => exact keepsFlags_if (keepsFlags_pop fun _ _ h => keepsFlags_doneTaken h) (keepsFlags_done rfl)
  case reti =>
    refine ends_afterBus fun _ _ hu => keepsFlags_done ?_
    unfold returnFromInterrupt at hu
    split at hu
    · cases hu
    · next hw =>
      cases hu
      have hf := pop16_flags hw
      exact hf
  case undefinedD3 | undefinedDB | undefinedDD | undefinedE3 | undefinedE4 | undefinedEB | undefinedEC | undefinedED |
    undefinedF4 | undefinedFC | undefinedFD => exact ends_fatal _ s

/-- Settles O46: the row of R74 for each instruction. -/
theorem flagsFollowTheFlagTable : Obligations.FlagsFollowTheFlagTable :=
  fun _ s _ hcb hwf h => (exec_flagsAgree hcb hwf s).next h

/-! ### Decimal arithmetic -/

theorem decimal_digits {z t u : Nat} (hu : u < 10) (hz : z % 100 = 10 * t + u) :
    z % 100 / 10 * 16 + z % 10 = 16 * t + u := by omega

/-- `Add8` and `DAA` on two-digit decimal bytes, by their digits. -/
theorem daa8_add8 {p q m n : Nat} {a d : Byte} (hp : p < 10) (hq : q < 10) (hm : m < 10) (hn : n < 10)
    (ha : a.toNat = 16 * p + q) (hd : d.toNat = 16 * m + n) :
    (daa8 (add8 a d false).1 (add8 a d false).2).1.toNat =
        (10 * p + q + (10 * m + n)) % 100 / 10 * 16 + (10 * p + q + (10 * m + n)) % 10 ∧
      ((daa8 (add8 a d false).1 (add8 a d false).2).2.c = true ↔ 100 ≤ 10 * p + q + (10 * m + n)) := by
  have hsum : (add8 a d false).1.toNat = (16 * (p + m) + (q + n)) % 256 := by
    rw [add8_fst_toNat, ha, hd, Bool.toNat_false]
    omega
  have hh : (add8 a d false).2.h = true ↔ 16 ≤ q + n := by
    rw [add8_h_iff, ha, hd, Bool.toNat_false]
    omega
  have hc : (add8 a d false).2.c = true ↔ 256 ≤ 16 * (p + m) + (q + n) := by
    rw [add8_c_iff, ha, hd, Bool.toNat_false]
    omega
  rw [daa8_fst_toNat_add rfl, daa8_c_iff_add rfl]
  simp only [hh, hc, hsum]
  refine ⟨?_, by omega⟩
  by_cases hlow : q + n < 10
  · rw [if_neg (c := 16 ≤ q + n ∨ _) (by omega)]
    by_cases hhigh : p + m < 10
    · rw [if_neg (by omega), decimal_digits (t := p + m) (u := q + n) hlow (by omega)]
      omega
    · rw [if_pos (by omega), decimal_digits (t := p + m - 10) (u := q + n) hlow (by omega)]
      omega
  · rw [if_pos (c := 16 ≤ q + n ∨ _) (by omega)]
    by_cases hhigh : p + m + 1 < 10
    · rw [if_neg (by omega), decimal_digits (t := p + m + 1) (u := q + n - 10) (by omega) (by omega)]
      omega
    · rw [if_pos (by omega), decimal_digits (t := p + m - 9) (u := q + n - 10) (by omega) (by omega)]
      omega

/-- The byte left by a subtraction of two-digit decimal bytes and its corrections is decimal, by the two borrows. -/
theorem decimal_of_difference {p q m n r : Nat} (hp : p < 10) (hq : q < 10) (hm : m < 10) (hn : n < 10) (hr : r < 256)
    (h : (r : Int) = ((16 * p + q - (16 * m + n)) - (if p < m ∨ p = m ∧ q < n then 0x60 else 0) -
      (if q < n then 6 else 0)) % 256) :
    r = (10 * p + q + 100 - (10 * m + n)) % 100 / 10 * 16 + (10 * p + q + 100 - (10 * m + n)) % 10 := by
  by_cases hlow : q < n
  · rw [if_pos (c := q < n) hlow] at h
    by_cases hhigh : m < p
    · rw [if_neg (by omega)] at h
      rw [decimal_digits (t := p - m - 1) (u := q + 10 - n) (by omega) (by omega)]
      omega
    · rw [if_pos (by omega)] at h
      rw [decimal_digits (t := p + 9 - m) (u := q + 10 - n) (by omega) (by omega)]
      omega
  · rw [if_neg (c := q < n) hlow] at h
    by_cases hhigh : m ≤ p
    · rw [if_neg (by omega)] at h
      rw [decimal_digits (t := p - m) (u := q - n) (by omega) (by omega)]
      omega
    · rw [if_pos (by omega)] at h
      rw [decimal_digits (t := p + 10 - m) (u := q - n) (by omega) (by omega)]
      omega

/-- `Sub8` and `DAA` on two-digit decimal bytes, by their digits. -/
theorem daa8_sub8 {p q m n : Nat} {a d : Byte} (hp : p < 10) (hq : q < 10) (hm : m < 10) (hn : n < 10)
    (ha : a.toNat = 16 * p + q) (hd : d.toNat = 16 * m + n) :
    (daa8 (sub8 a d false).1 (sub8 a d false).2).1.toNat =
        (10 * p + q + 100 - (10 * m + n)) % 100 / 10 * 16 + (10 * p + q + 100 - (10 * m + n)) % 10 ∧
      ((daa8 (sub8 a d false).1 (sub8 a d false).2).2.c = true ↔ 10 * p + q < 10 * m + n) := by
  have hh : (sub8 a d false).2.h = true ↔ q < n := by
    rw [sub8_h_iff, ha, hd, Bool.toNat_false]
    omega
  have hc : (sub8 a d false).2.c = true ↔ p < m ∨ p = m ∧ q < n := by
    rw [sub8_c_iff, ha, hd, Bool.toNat_false]
    omega
  have hres := daa8_fst_toNat_sub (f := (sub8 a d false).2) rfl (sub8 a d false).1
  rw [sub8_fst_toNat, ha, hd, Bool.toNat_false] at hres
  simp only [hc, hh] at hres
  rw [daa8_c_sub rfl, hc]
  refine ⟨decimal_of_difference hp hq hm hn (BitVec.isLt _) ?_, by omega⟩
  rw [hres]
  split <;> split <;> omega

/-- Settles O21: the corrections of `DAA` on the sum or difference of two decimal bytes, by their digits. -/
theorem decimalAdjustGivesDecimalArithmetic : Obligations.DecimalAdjustGivesDecimalArithmetic := by
  intro s t u x y hx hy ha
  obtain ⟨p, q, hp, hq, rfl⟩ : ∃ p q, p < 10 ∧ q < 10 ∧ x = 10 * p + q := ⟨x / 10, x % 10, by omega, by omega, by omega⟩
  obtain ⟨m, n, hm, hn, rfl⟩ : ∃ m n, m < 10 ∧ n < 10 ∧ y = 10 * m + n := ⟨y / 10, y % 10, by omega, by omega, by omega⟩
  have ha' : s.cpu.a.toNat = 16 * p + q := by omega
  have hd : (BitVec.ofNat 8 ((10 * m + n) / 10 * 16 + (10 * m + n) % 10)).toNat = 16 * m + n := by
    rw [BitVec.toNat_ofNat]
    omega
  refine ⟨fun ht hu => ?_, fun ht hu => ?_⟩
  · cases ht
    cases hu
    exact daa8_add8 hp hq hm hn ha' hd
  · cases ht
    cases hu
    exact daa8_sub8 hp hq hm hn ha' hd

end Sys2Proof.Claims
end

section
/-! PROOFS. The step around an instruction, interrupts, halt and stop, and the Scheduler (files 60 and 30). -/

namespace Sys2Proof.Machine

variable {s : State}

/-! ### Fetching (R145) -/

theorem fetch8_some {v : Byte} (h : readByte s s.cpu.pc = some v) : fetch8 s = .ok v (setPc (s.cpu.pc + 1) s) := by
  unfold fetch8
  rw [h]

theorem fetch8_none (h : readByte s s.cpu.pc = none) : fetch8 s = .fatal s.cpu.pc s := by
  unfold fetch8
  rw [h]

theorem readByte_setPc (v : Word) (addr : Word) : readByte (setPc v s) addr = readByte s addr :=
  readByte_onlyCpu (onlyCpu_cpu _ _) addr

theorem fetchInstr_none (h : readByte s s.cpu.pc = none) : fetchInstr s = .fatal s.cpu.pc s := by
  unfold fetchInstr
  rw [fetch8_none h]

/-- After the first byte the rest of the instruction is fetched from the next address on. -/
theorem fetchInstr_of_rest {op : Byte} {rest : Byte × Byte} {t : State} (h : readByte s s.cpu.pc = some op)
    (hr : fetchRest (lengthOf op) (setPc (s.cpu.pc + 1) s) = .ok rest t) :
    fetchInstr s = .ok (decodeOp op rest.1 rest.2) t := by
  simp only [fetchInstr, fetch8_some h, hr]

theorem fetchInstr_of_rest_fatal {op : Byte} {addr : Word} {t : State} (h : readByte s s.cpu.pc = some op)
    (hr : fetchRest (lengthOf op) (setPc (s.cpu.pc + 1) s) = .fatal addr t) : fetchInstr s = .fatal addr t := by
  simp only [fetchInstr, fetch8_some h, hr]

theorem fetchRest_one (t : State) : fetchRest 1 t = .ok (0, 0) t := rfl

theorem fetchRest_two {lo : Byte} (h : readByte s s.cpu.pc = some lo) :
    fetchRest 2 s = .ok (lo, 0) (setPc (s.cpu.pc + 1) s) := by
  simp [fetchRest, fetch8_some h]

theorem fetchRest_three {lo hi : Byte} (h : readByte s s.cpu.pc = some lo)
    (h' : readByte s (s.cpu.pc + 1) = some hi) :
    fetchRest 3 s = .ok (lo, hi) (setPc (s.cpu.pc + 1 + 1) s) := by
  have h2 : fetch8 (setPc (s.cpu.pc + 1) s) = .ok hi (setPc (s.cpu.pc + 1 + 1) s) :=
    fetch8_some ((readByte_setPc _ _).trans h')
  rw [fetchRest, if_neg (by omega), fetch8_some h]
  dsimp only
  rw [if_neg (by omega), h2]

theorem fetchRest_none {n : Nat} (hn : 2 ≤ n) (h : readByte s s.cpu.pc = none) :
    fetchRest n s = .fatal s.cpu.pc s := by
  rw [fetchRest, if_neg (by omega), fetch8_none h]

theorem fetchRest_three_none {lo : Byte} (h : readByte s s.cpu.pc = some lo) (h' : readByte s (s.cpu.pc + 1) = none) :
    fetchRest 3 s = .fatal (s.cpu.pc + 1) (setPc (s.cpu.pc + 1) s) := by
  have h2 : fetch8 (setPc (s.cpu.pc + 1) s) = .fatal (s.cpu.pc + 1) (setPc (s.cpu.pc + 1) s) :=
    fetch8_none ((readByte_setPc _ _).trans h')
  rw [fetchRest, if_neg (by omega), fetch8_some h]
  dsimp only
  rw [if_neg (by omega), h2]

theorem executePath_fatal {addr : Word} {t : State} (h : fetchInstr s = .fatal addr t) :
    executePath s = busFault addr t := by
  unfold executePath
  rw [h]
  rfl

end Sys2Proof.Machine

namespace Sys2Proof.Claims

open Sys2Proof.Machine

/-- Bytes that an instruction does not have do not change it. -/
theorem decodeOp_congr {op lo hi lo' hi' : Byte} (h : [op, lo, hi].take (lengthOf op) = [op, lo', hi'].take (lengthOf op)) :
    decodeOp op lo hi = decodeOp op lo' hi' := by
  obtain ⟨hwf, hcode⟩ := readFrom_decodeOp op lo hi
  obtain ⟨hwf', hcode'⟩ := readFrom_decodeOp op lo' hi'
  exact encode_injective hwf hwf' (hcode.trans (h.trans hcode'.symm))

/-- Fetching reads the instruction whose bytes stand at `pc` and moves `pc` past them (R145, R146). -/
theorem fetchInstr_of_bytes {s : State} {op lo hi : Byte} (h : bytesAt s s.cpu.pc ([op, lo, hi].take (lengthOf op))) :
    fetchInstr s = .ok (decodeOp op lo hi) (setPc (s.cpu.pc + BitVec.ofNat 16 (lengthOf op)) s) := by
  have hlen : lengthOf op = 1 ∨ lengthOf op = 2 ∨ lengthOf op = 3 := by
    have := lengthOf_bounds op
    omega
  rcases hlen with hl | hl | hl <;> rw [hl] at h ⊢
  · obtain ⟨hop, -⟩ := h
    rw [← decodeOp_congr (lo := 0) (hi := 0) (by rw [hl]; rfl)]
    refine fetchInstr_of_rest (rest := (0, 0)) hop ?_
    rw [hl]
    exact fetchRest_one _
  · obtain ⟨hop, hlo, -⟩ := h
    have hpc : s.cpu.pc + BitVec.ofNat 16 2 = s.cpu.pc + 1 + 1 := by bv_omega
    rw [hpc, ← decodeOp_congr (lo := lo) (hi := 0) (by rw [hl]; rfl)]
    refine fetchInstr_of_rest (rest := (lo, 0)) hop ?_
    rw [hl]
    exact fetchRest_two ((readByte_setPc _ _).trans hlo)
  · obtain ⟨hop, hlo, hhi, -⟩ := h
    have hpc : s.cpu.pc + BitVec.ofNat 16 3 = s.cpu.pc + 1 + 1 + 1 := by bv_omega
    rw [hpc]
    refine fetchInstr_of_rest (rest := (lo, hi)) hop ?_
    rw [hl]
    exact fetchRest_three ((readByte_setPc _ _).trans hlo) ((readByte_setPc _ _).trans hhi)

/-- The same, for the decoder's reading of a list of bytes. -/
theorem fetchInstr_of_decode {s : State} {bytes : List Byte} {i : Instr} (h : bytesAt s s.cpu.pc bytes)
    (hd : decode bytes = .instr i bytes.length) (hcb : i ≠ .prefixCb) :
    fetchInstr s = .ok i (setPc (s.cpu.pc + BitVec.ofNat 16 bytes.length) s) := by
  rcases decode_cases hd with ⟨-, hi, -⟩ | ⟨op, more, lo, hi, -, hlen, htake, rfl⟩
  · exact absurd hi hcb
  · rw [List.take_length] at htake
    rw [htake, hlen] at h
    rw [hlen]
    exact fetchInstr_of_bytes h

theorem bytesAt_onlyCpu {s t : State} (h : OnlyCpu s t) {bytes : List Byte} {addr : Word} (hb : bytesAt s addr bytes) :
    bytesAt t addr bytes := by
  induction bytes generalizing addr with
  | nil => trivial
  | cons b rest ih => exact ⟨(readByte_onlyCpu h addr).trans hb.1, ih hb.2⟩

/-! ### The step (R360, R390) -/

theorem step_of_running {s : State} (h : s.running) : step s = iteration s := by
  obtain ⟨hf, he⟩ := h
  simp [step, hf, he]

theorem bootHandover_eq {s : State} (h : s.sched.bootWatch = true) (h' : s.ctl.bootActive = false) :
    bootHandover s = { s with cpu := { s.cpu with pc := 0x0100 }, sched := { s.sched with bootWatch := false } } :=
  if_pos ⟨h, h'⟩

theorem bootHandover_eq_self {s : State} (h : ¬(s.sched.bootWatch = true ∧ s.ctl.bootActive = false)) :
    bootHandover s = s := if_neg h

theorem stepBody_executing {s : State} (hh : s.cpu.halt = false) (hs : s.cpu.stop = false) :
    stepBody s = thenOut (executePath s) fun t => .next (if t.cpu.halt then haltCheck t else t) := by
  simp [stepBody, hh, hs]

theorem thenOut_assoc (o : Out) (f g : State → Out) : thenOut (thenOut o f) g = thenOut o fun t => thenOut (f t) g := by
  cases o <;> rfl

/-- Settles O5: the fetch reads the decoded instruction; what follows is the step's own order. -/
theorem stepRunsTheDecodedInstruction : Obligations.StepRunsTheDecodedInstruction := by
  intro s bytes i ⟨hrun, hhalt, hstop⟩ hboot hbytes hdecode hcb
  have hfetch := fetchInstr_of_decode (s := setCost 0 s) (bytesAt_onlyCpu (onlyCpu_cpu _ _) hbytes) hdecode hcb
  have hbody := stepBody_executing (s := setCost 0 s) hhalt hstop
  rw [executePath, hfetch] at hbody
  rw [step_of_running hrun, iteration, bootHandover_eq_self hboot, processorStep, hbody, afterBus]
  simp only [thenOut_assoc]
  rfl

/-- Settles O7: each byte of the fetch by the address it is read at. -/
theorem unreadableInstructionByteEndsTheStep : Obligations.UnreadableInstructionByteEndsTheStep := by
  refine fun s b lo => ⟨fun h => executePath_fatal (fetchInstr_none h), fun hb hl h => executePath_fatal ?_,
    fun hb hl hlo h => executePath_fatal ?_⟩
  · exact fetchInstr_of_rest_fatal hb (fetchRest_none hl ((readByte_setPc _ _).trans h))
  · have hpc : s.cpu.pc + 1 + 1 = s.cpu.pc + 2 := by bv_omega
    rw [← hpc] at h ⊢
    refine fetchInstr_of_rest_fatal hb ?_
    rw [hl]
    exact fetchRest_three_none ((readByte_setPc _ _).trans hlo) ((readByte_setPc _ _).trans h)

/-! ### Interrupts (R353 to R365) -/

theorem getLsbD_pendingInterrupts (s : State) {k : Nat} (hk : k < 5) :
    (pendingInterrupts s).getLsbD k = ((ifReg s).getLsbD k && s.mem.ie.getLsbD k) := by
  have hmask : ∀ k < 5, (0x1F : Byte).getLsbD k = true := by decide
  rw [pendingInterrupts, BitVec.getLsbD_and, BitVec.getLsbD_and, hmask k hk, Bool.and_true]

theorem pending_iff (s : State) {k : Nat} (hk : k < 5) :
    (pendingInterrupts s).getLsbD k = true ↔ (ifReg s).getLsbD k = true ∧ s.mem.ie.getLsbD k = true := by
  rw [getLsbD_pendingInterrupts s hk, Bool.and_eq_true]

theorem firstPending_eq (v : Byte) : firstPending v = (List.range 5).find? fun i => v.getLsbD i := rfl

/-- The lowest pending interrupt comes first (R353, R365). -/
theorem firstPending_of_lowest {s : State} {i : Nat} (h : lowestPending s i) :
    firstPending (pendingInterrupts s) = some i := by
  obtain ⟨hi, hreq, hie, hlow⟩ := h
  rw [firstPending_eq, List.find?_range_eq_some]
  refine ⟨(pending_iff s hi).mpr ⟨hreq, hie⟩, List.mem_range.mpr hi, fun j hj => ?_⟩
  rw [Bool.not_eq_true', ← Bool.not_eq_true, pending_iff s (by omega)]
  exact hlow j hj

theorem firstPending_of_none {s : State} (h : nonePending s) : firstPending (pendingInterrupts s) = none := by
  rw [firstPending_eq, List.find?_range_eq_none]
  intro k hk
  rw [Bool.not_eq_true', ← Bool.not_eq_true, pending_iff s hk]
  exact h k hk

theorem pendingInterrupts_eq_zero_iff (s : State) : pendingInterrupts s = 0 ↔ nonePending s := by
  constructor
  · intro h k hk
    rw [← pending_iff s hk, h]
    exact Bool.eq_false_iff.mp BitVec.getLsbD_zero
  · intro h
    refine BitVec.eq_of_getLsbD_eq fun k hk => Eq.trans ?_ BitVec.getLsbD_zero.symm
    by_cases hk5 : k < 5
    · rw [← Bool.not_eq_true, pending_iff s hk5]
      exact h k hk5
    · have hmask : ∀ k < 8, ¬k < 5 → (0x1F : Byte).getLsbD k = false := by decide
      rw [pendingInterrupts, BitVec.getLsbD_and, hmask k hk hk5, Bool.and_false]

theorem dispatch_of_pending {s : State} {i : Nat} (hime : s.cpu.ime = true) (hhalt : s.cpu.halt = false)
    (hstop : s.cpu.stop = false) (h : lowestPending s i) : dispatch s = takeInterrupt i s := by
  rw [dispatch, if_pos ⟨hime, hhalt, hstop⟩, firstPending_of_lowest h]

theorem dispatch_of_none {s : State}
    (h : s.cpu.ime = false ∨ s.cpu.halt = true ∨ s.cpu.stop = true ∨ nonePending s) : dispatch s = .ok () s := by
  unfold dispatch
  split
  · next hc =>
    obtain ⟨hime, hhalt, hstop⟩ := hc
    have hnone : nonePending s := by simpa [hime, hhalt, hstop] using h
    rw [firstPending_of_none hnone]
  · rfl

theorem acknowledged_eq (request : Byte) (s : State) :
    acknowledged request s = setImePending false (setIme false (setIo 0x0F request s)) := rfl

theorem takeInterrupt_of_push {s t : State} {i : Nat}
    (h : push16 s.cpu.pc (acknowledged (withoutRequest i (ifReg s)) s) = .ok () t) :
    takeInterrupt i s = .ok () (addCost (intDispatchCycles s) (setPc (vector i) t)) := by
  have hcost : intDispatchCycles t = intDispatchCycles s := congrArg (·.costs.intDispatch) (push16_setup h)
  rw [acknowledged_eq] at h
  unfold takeInterrupt
  simp only [setImePending_cpu_pc, setIme_cpu_pc, setIo_cpu, h, hcost]

theorem takeInterrupt_of_push_fatal {s t : State} {i : Nat} {bad : Word}
    (h : push16 s.cpu.pc (acknowledged (withoutRequest i (ifReg s)) s) = .fatal bad t) :
    takeInterrupt i s = .fatal bad t := by
  rw [acknowledged_eq] at h
  unfold takeInterrupt
  simp only [setImePending_cpu_pc, setIme_cpu_pc, setIo_cpu, h]

/-- Settles O30: the entry is a push from the acknowledged state; the dispatch check finds the lowest bit. -/
theorem interruptEntryFollowsItsRule : Obligations.InterruptEntryFollowsItsRule := by
  refine fun s => ⟨fun hime hhalt hstop i hi => ?_, dispatch_of_none⟩
  rw [dispatch_of_pending hime hhalt hstop hi]
  exact ⟨withoutRequest i (ifReg s), bitCleared_withoutRequest i _,
    fun t ht => takeInterrupt_of_push (push16_of_stores ht),
    fun bad u hu => takeInterrupt_of_push_fatal (push16_fatal_first hu),
    fun bad u w hu hw => takeInterrupt_of_push_fatal (push16_fatal_second hu hw)⟩

/-! ### Halt and stop (R360 to R362) -/

theorem pendingInterrupts_setCost (n : Nat) (s : State) : pendingInterrupts (setCost n s) = pendingInterrupts s := rfl

theorem haltCheck_of_none {s : State} (h : nonePending s) : haltCheck s = setCost (haltIdleCycles s) s := by
  unfold haltCheck
  dsimp only
  rw [if_pos ((pendingInterrupts_setCost _ _).trans ((pendingInterrupts_eq_zero_iff s).mpr h))]

theorem haltCheck_of_pending {s : State} (h : ¬nonePending s) :
    haltCheck s = setHalt false (setCost (haltIdleCycles s) s) := by
  unfold haltCheck
  dsimp only
  rw [if_neg fun h0 => h ((pendingInterrupts_eq_zero_iff s).mp ((pendingInterrupts_setCost _ _).symm.trans h0))]

theorem stepBody_halted {s : State} (hh : s.cpu.halt = true) (hs : s.cpu.stop = false) :
    stepBody s = .next (haltCheck s) := by
  simp [stepBody, thenOut, hh, hs]

theorem stepBody_stopped {s : State} (hs : s.cpu.stop = true) : stepBody s = .next (stoppedStep s) := if_pos hs

/-- A halted step is its halt check and the dispatch check (R360). -/
theorem processorStep_halted {s : State} (hh : s.cpu.halt = true) (hs : s.cpu.stop = false) :
    processorStep s = afterBus (dispatch (haltCheck (setCost 0 s))) fun _ u => .next (addTotal u) := by
  rw [processorStep, stepBody_halted (s := setCost 0 s) hh hs]
  rfl

/-- Settles O31: the halt check, and the dispatch check after it. -/
theorem haltedStepWakesOnAnEnabledRequest : Obligations.HaltedStepWakesOnAnEnabledRequest := by
  intro s hh hs
  rw [processorStep_halted hh hs]
  refine ⟨fun hnone => ?_, fun hpending hime => ?_, fun hpending _ => ?_⟩
  · rw [haltCheck_of_none (s := setCost 0 s) hnone, 
      dispatch_of_none (s := setCost (haltIdleCycles (setCost 0 s)) (setCost 0 s)) (.inr (.inl hh))]
    rfl
  · rw [haltCheck_of_pending (s := setCost 0 s) hpending, 
      dispatch_of_none (s := setHalt false (setCost (haltIdleCycles (setCost 0 s)) (setCost 0 s))) (.inl hime)]
    rfl
  · rw [haltCheck_of_pending (s := setCost 0 s) hpending]
    rfl

theorem speedSwitch_bit (v : Byte) {j : Nat} (hj : j < 8) :
    ((v ^^^ 0x80) &&& 0xFE).getLsbD j =
      (if j = 0 then false else if j = 7 then !v.getLsbD 7 else v.getLsbD j) := by
  rw [BitVec.getLsbD_and, BitVec.getLsbD_xor]
  have hmasks : ∀ j < 8, (0x80 : Byte).getLsbD j = (j == 7) ∧ (0xFE : Byte).getLsbD j = (j != 0) := by decide
  obtain ⟨h80, hFE⟩ := hmasks j hj
  rw [h80, hFE]
  by_cases h0 : j = 0
  · simp [h0]
  · by_cases h7 : j = 7
    · simp [h7]
    · have hb7 : (j == 7) = false := beq_false_of_ne h7
      have hb0 : (j != 0) = true := bne_iff_ne.mpr h0
      rw [if_neg h0, if_neg h7, hb7, hb0, Bool.xor_false, Bool.and_true]

theorem speedSwitch_unarmed {s : State} (h : (key1 s).getLsbD 0 = false) : speedSwitch s = s :=
  if_neg (Bool.eq_false_iff.mp h)

theorem speedSwitch_armed {s : State} (h : (key1 s).getLsbD 0 = true) :
    speedSwitch s = setIo 0x4D ((key1 s ^^^ 0x80) &&& 0xFE) s := if_pos h

/-- The stopped step on `CGB` ends the stop with the speed switch (R361). -/
theorem stoppedStep_cgb {s : State} (h : isCgb s = true) :
    stoppedStep s = setStop false (speedSwitch (setCost (stopIdleCycles s) s)) := if_pos h

/-- On `DMG` the host's answer decides (R361). -/
theorem stoppedStep_dmg {s : State} (h : isCgb s = false) :
    stoppedStep s = if (stopWake (setCost (stopIdleCycles s) s)).1 then
        setStop false (stopWake (setCost (stopIdleCycles s) s)).2
      else (stopWake (setCost (stopIdleCycles s) s)).2 := by
  unfold stoppedStep
  exact if_neg fun h' => Bool.false_ne_true (h.symm.trans h')

theorem stopWake_nil {s : State} (h : s.host.stopWakes = []) : stopWake s = (false, s) := by
  unfold stopWake
  rw [h]

theorem stopWake_cons {s : State} {w : Bool} {rest : List Bool} (h : s.host.stopWakes = w :: rest) :
    stopWake s = (w, { s with host := { s.host with stopWakes := rest } }) := by
  unfold stopWake
  rw [h]

/-- Settles O33: the stopped step by variant, armed bit and the host's answer. -/
theorem stoppedStepSwitchesTheSpeed : Obligations.StoppedStepSwitchesTheSpeed := by
  intro s hstop
  rw [stepBody_stopped hstop]
  refine ⟨fun hcgb harm => ?_, fun hcgb harm => ?_, fun hdmg hnil => ?_, fun w rest hdmg hcons => ?_⟩
  · rw [stoppedStep_cgb hcgb, speedSwitch_unarmed (s := setCost (stopIdleCycles s) s) harm]
    rfl
  · refine ⟨(key1 s ^^^ 0x80) &&& 0xFE, fun j hj => speedSwitch_bit _ hj, ?_⟩
    rw [stoppedStep_cgb hcgb, speedSwitch_armed (s := setCost (stopIdleCycles s) s) harm]
    rfl
  · rw [stoppedStep_dmg hdmg, stopWake_nil (s := setCost (stopIdleCycles s) s) hnil]
    rfl
  · rw [stoppedStep_dmg hdmg, stopWake_cons (s := setCost (stopIdleCycles s) s) hcons]
    cases w
    · have hcpu : { s.cpu with cycI := s.setup.costs.stopIdle } =
          { s.cpu with cycI := s.setup.costs.stopIdle, stop := !false } := by
        rw [Bool.not_false, ← hstop]
      exact congrArg (fun cpu => Host.Outcome.next { s with cpu := cpu, host := { s.host with stopWakes := rest } }) hcpu
    · rfl

/-! ### The Scheduler (R390 to R392) -/

theorem speed_shift (s : State) (n : Nat) :
    n >>> speed s = if isCgb s = true ∧ (key1 s).getLsbD 7 = true then n / 2 else n := by
  unfold speed
  simp only [Bool.and_eq_true]
  split
  · exact Nat.shiftRight_one n
  · rfl

/-- Settles O53: the iteration unfolded, by the hand-over, the Pixel Processor's outcome and the poll counter. -/
theorem iterationRunsTheAgentsInOrder : Obligations.IterationRunsTheAgentsInOrder := by
  intro s hrun
  rw [step_of_running hrun, ← speed_shift]
  refine ⟨fun hwatch hboot => ?_, fun hn => ?_, fun t ht => ?_, fun bad t ht => ?_, fun c => ⟨fun hc => ?_, fun hc => ?_⟩⟩
  · rw [iteration, bootHandover_eq hwatch hboot]
  · rw [iteration, bootHandover_eq_self hn]
  · rw [devicesAdvance, ht]
    rfl
  · rw [devicesAdvance, ht]
    rfl
  · exact if_neg (by omega)
  · exact if_pos hc

/-- The machine after the request that a newly pressed key makes (R392). -/
def pressed (s : State) (keys : Keys) : State :=
  if s.setup.joypadIrqOnPress && newlyPressed s.host.keys keys then request 4 s else s

theorem pressed_frame (s : State) (keys : Keys) :
    pressed s keys = { s with mem := { s.mem with io := (pressed s keys).mem.io } } := by
  unfold pressed
  split <;> rfl

theorem pressed_yes {s : State} {keys : Keys} (hirq : s.setup.joypadIrqOnPress = true)
    (hnew : newlyPressed s.host.keys keys = true) : pressed s keys = request 4 s := by
  rw [pressed, hirq, hnew]
  rfl

theorem pressed_no {s : State} {keys : Keys}
    (h : s.setup.joypadIrqOnPress = false ∨ newlyPressed s.host.keys keys = false) : pressed s keys = s := by
  rw [pressed, if_neg]
  rw [Bool.and_eq_true]
  rintro ⟨hirq, hnew⟩
  rcases h with h | h
  · exact Bool.false_ne_true (h.symm.trans hirq)
  · exact Bool.false_ne_true (h.symm.trans hnew)

/-- The poll with an answer of the host (R392). -/
theorem inputPoll_answered {s : State} {ans : PollAnswer} {rest : List PollAnswer} (h : s.host.polls = ans :: rest)
    (hq : ans.quit = false) :
    inputPoll s = { pressed s ans.keys with host := { s.host with polls := rest, keys := ans.keys } } := by
  simp only [inputPoll, pollAnswer, h, hq, pressed, Bool.false_eq_true, if_false]
  split <;> rfl

theorem inputPoll_quit_ended {s : State} {ans : PollAnswer} {rest : List PollAnswer} (h : s.host.polls = ans :: rest)
    (hq : ans.quit = true) : (inputPoll s).host.ended = true := by
  simp only [inputPoll, pollAnswer, h, hq]
  rw [if_pos trivial, saveFlush_frame]

/-- Settles O54: the poll by the host's answer, the flush by its condition. -/
theorem pollAndFlushFollowTheirRules : Obligations.PollAndFlushFollowTheirRules := by
  intro s hc
  have hio : s.mem.io.wf = true := by
    simp only [Mems.canonical, Bool.and_eq_true] at hc
    tauto
  refine ⟨fun ans rest hp hq => ?_, fun ans rest hp hq => ?_, fun hb hd => if_pos ⟨hb, hd⟩, fun h => if_neg ?_⟩
  · rw [inputPoll_answered hp hq]
    refine ⟨rfl, fun hirq hnew => ?_, fun hno => ?_, fun n hn => ?_, ?_⟩
    · show bitAdded 4 (ifReg s) (ifReg (pressed s ans.keys))
      rw [pressed_yes hirq hnew, ifReg_request hio]
      exact bitAdded_or 4 _
    · show ifReg (pressed s ans.keys) = ifReg s
      rw [pressed_no hno]
    · show io (pressed s ans.keys) n = io s n
      unfold pressed
      split
      · exact (ioStep_request hio 4).io_eq hn
      · rfl
    · rw [pressed_frame]
  · have hended := inputPoll_quit_ended hp hq
    refine ⟨hended, fun hf => ?_⟩
    have hfault : (inputPoll s).fault = none := by
      rw [inputPoll_frame]
      exact hf
    simp [step, hfault, hended]
  · rintro ⟨hb, hd⟩
    rcases h with h | h
    · exact Bool.false_ne_true (h.symm.trans hb)
    · exact Bool.false_ne_true (h.symm.trans hd)

end Sys2Proof.Claims
end

section
/-! PROOFS. The interrupt enables around an instruction, and the bank registers and the pending enable along a step. -/

namespace Sys2Proof.Machine

/-! ### What fetching changes -/

theorem fetchRest_pc {n : Nat} {s t : State} {b : Byte × Byte} (h : fetchRest n s = .ok b t) : t = setPc t.cpu.pc s := by
  unfold fetchRest at h
  split at h
  · cases h
    rfl
  · split at h
    · cases h
    · next hu =>
      rw [(fetch8_ok hu).2] at h
      split at h
      · cases h
        rfl
      · split at h
        · cases h
        · next hw =>
          cases h
          rw [(fetch8_ok hw).2]
          rfl

/-- Fetching moves the program counter only (R145). -/
theorem fetchInstr_pc {s t : State} {i : Instr} (h : fetchInstr s = .ok i t) : t = setPc t.cpu.pc s := by
  unfold fetchInstr at h
  split at h
  · cases h
  · next hu =>
    split at h
    · cases h
    · next hw =>
      cases h
      have hrest := fetchRest_pc hw
      rw [(fetch8_ok hu).2] at hrest
      exact hrest

end Sys2Proof.Machine

namespace Sys2Proof.Claims

open Sys2Proof.Machine

/-! ### The enables (R25, R26, R320, R333, R334) -/

/-- The escape fetches a byte and runs a row of the secondary table. -/
theorem exec_prefixCb_next {s t : State} (h : exec .prefixCb s = .next t) :
    ∃ op2, exec (decodeSecondary op2) (setPc (s.cpu.pc + 1) s) = .next t := by
  rcases hread : readByte s s.cpu.pc with _ | op2
  · rw [exec_prefixCb_none hread] at h
    cases h
  · exact ⟨op2, (exec_prefixCb_some hread).symm.trans h⟩

/-- No row of the secondary table changes a control flag. -/
theorem exec_decodeSecondary_control {op2 : Byte} {s t : State} (h : exec (decodeSecondary op2) s = .next t) :
    t.cpu.ime = s.cpu.ime ∧ t.cpu.imePending = s.cpu.imePending ∧ t.cpu.halt = s.cpu.halt ∧ t.cpu.stop = s.cpu.stop := by
  have hne : ∀ {i : Instr}, (∀ b : Byte, encode i ≠ [0xCB, b]) → decodeSecondary op2 ≠ i := decodeSecondary_ne_of_encode
  obtain ⟨-, -, -, hime, hpending, hhalt, hstop, -⟩ :=
    registersNotNamedAreKept _ s t (decodeSecondary_ne_prefixCb op2) h
  exact ⟨hime (hne fun _ => nofun) (hne fun _ => nofun),
    hpending (hne fun _ => nofun) (hne fun _ => nofun) (hne fun _ => nofun), hhalt (hne fun _ => nofun),
    hstop fun _ => hne fun _ => by simp [encode]⟩

/-- Only `EI`, `DI` and `RETI` change the enables. -/
theorem exec_enables_kept {i : Instr} {s t : State} (hdi : i ≠ .di) (hei : i ≠ .ei) (hreti : i ≠ .reti)
    (h : exec i s = .next t) : t.cpu.ime = s.cpu.ime ∧ t.cpu.imePending = s.cpu.imePending := by
  by_cases hcb : i = .prefixCb
  · subst hcb
    obtain ⟨op2, hrow⟩ := exec_prefixCb_next h
    obtain ⟨hime, hpending, -, -⟩ := exec_decodeSecondary_control hrow
    exact ⟨hime, hpending⟩
  · obtain ⟨-, -, -, hime, hpending, -⟩ := registersNotNamedAreKept i s t hcb h
    exact ⟨hime hdi hreti, hpending hdi hei hreti⟩

theorem exec_di {s t : State} (h : exec .di s = .next t) : t.cpu.ime = false ∧ t.cpu.imePending = false := by
  rw [exec_control_cpu.1 h]
  exact ⟨rfl, rfl⟩

theorem exec_ei {s t : State} (h : exec .ei s = .next t) :
    t.cpu.ime = s.cpu.ime ∧ t.cpu.imePending = true ∧ t.cpu.halt = s.cpu.halt ∧ t.cpu.stop = s.cpu.stop := by
  rw [exec_control_cpu.2.1 h]
  exact ⟨rfl, rfl, rfl, rfl⟩

theorem exec_reti {s t : State} (h : exec .reti s = .next t) : t.cpu.ime = true ∧ t.cpu.imePending = false := by
  rw [exec_control_cpu.2.2.2.2 h]
  exact ⟨rfl, rfl⟩

/-! ### The delayed enable (R363) -/

theorem commitEnable_pending {s : State} (h : s.cpu.imePending = true) :
    (commitEnable true s).cpu.ime = true ∧ (commitEnable true s).cpu.imePending = false := by
  rw [commitEnable, h]
  exact ⟨rfl, rfl⟩

theorem commitEnable_eq_self {b : Bool} {s : State} (h : b = false ∨ s.cpu.imePending = false) :
    commitEnable b s = s := by
  rcases h with h | h
  · rw [commitEnable, h]
    rfl
  · rw [commitEnable, h, Bool.and_false]
    rfl

theorem commitEnable_halt_stop (b : Bool) (s : State) :
    (commitEnable b s).cpu.halt = s.cpu.halt ∧ (commitEnable b s).cpu.stop = s.cpu.stop := by
  unfold commitEnable
  split <;> exact ⟨rfl, rfl⟩

/-- The executed instruction between the fetch and the delayed enable (R360, R363). -/
theorem executePath_of_fetch {s t u : State} {i : Instr} (hu : fetchInstr s = .ok i u) (ht : executePath s = .next t) :
    ∃ v, exec i u = .next v ∧ t = commitEnable s.cpu.imePending v := by
  obtain ⟨i', u', v, hu', hv, rfl⟩ := executePath_next ht
  rw [hu] at hu'
  cases hu'
  exact ⟨v, hv, rfl⟩

/-- Settles O32: the instruction's own effect on the enables, then the delayed one. -/
theorem enableTakesEffectAfterTheNextInstruction : Obligations.EnableTakesEffectAfterTheNextInstruction := by
  intro s t u i hu ht
  obtain ⟨v, hv, rfl⟩ := executePath_of_fetch hu ht
  have hcpu : u.cpu = { s.cpu with pc := u.cpu.pc } := congrArg State.cpu (fetchInstr_pc hu)
  have hime : u.cpu.ime = s.cpu.ime := by rw [hcpu]
  have hpending : u.cpu.imePending = s.cpu.imePending := by rw [hcpu]
  refine ⟨fun hp hdi => ?_, fun hi => ?_, fun hp hi => ?_, fun hi => ?_, fun hp hei hdi hreti => ?_⟩
  · rw [hp]
    by_cases hreti : i = .reti
    · subst hreti
      have hv := exec_reti hv
      rw [commitEnable_eq_self (.inr hv.2)]
      exact hv
    · by_cases hei : i = .ei
      · subst hei
        exact commitEnable_pending (exec_ei hv).2.1
      · exact commitEnable_pending ((exec_enables_kept hdi hei hreti hv).2.trans (hpending.trans hp))
  · subst hi
    have hv := exec_di hv
    rw [commitEnable_eq_self (.inr hv.2)]
    exact hv
  · subst hi
    obtain ⟨hvime, hvpending, -⟩ := exec_ei hv
    rw [commitEnable_eq_self (.inl hp)]
    exact ⟨hvime.trans hime, hvpending⟩
  · subst hi
    have hv := exec_reti hv
    rw [commitEnable_eq_self (.inr hv.2)]
    exact hv
  · obtain ⟨hvime, hvpending⟩ := exec_enables_kept hdi hei hreti hv
    rw [commitEnable_eq_self (.inl hp)]
    exact ⟨hvime.trans hime, hvpending.trans (hpending.trans hp)⟩

/-! ### The pending enable along a step (R334) -/

theorem enableLegal_of_not_pending {s : State} (h : s.cpu.imePending = false) : s.enableLegal :=
  fun hp => absurd (h.symm.trans hp) Bool.false_ne_true

theorem enableLegal_congr {s t : State} (h : t.cpu = s.cpu) : t.enableLegal ↔ s.enableLegal := by
  rw [State.enableLegal, State.enableLegal, h]

/-- In an idle state nothing is pending. -/
theorem not_pending_of_idle {s : State} (h : s.enableLegal) (hidle : s.cpu.halt = true ∨ s.cpu.stop = true) :
    s.cpu.imePending = false := by
  rw [← Bool.not_eq_true]
  intro hp
  obtain ⟨hhalt, hstop⟩ := h hp
  rcases hidle with hi | hi
  · exact Bool.false_ne_true (hhalt.symm.trans hi)
  · exact Bool.false_ne_true (hstop.symm.trans hi)

/-- After `EI` the core is not idle; after any other instruction nothing is pending. -/
theorem executePath_enableLegal {s t : State} (hh : s.cpu.halt = false) (hs : s.cpu.stop = false)
    (ht : executePath s = .next t) : t.enableLegal := by
  obtain ⟨i, u, v, hu, hv, rfl⟩ := executePath_next ht
  by_cases hei : i = .ei
  · subst hei
    have hcpu : u.cpu = { s.cpu with pc := u.cpu.pc } := congrArg State.cpu (fetchInstr_pc hu)
    obtain ⟨-, -, hvhalt, hvstop⟩ := exec_ei hv
    obtain ⟨hhalt, hstop⟩ := commitEnable_halt_stop s.cpu.imePending v
    intro _
    rw [hhalt, hvhalt, hstop, hvstop, hcpu]
    exact ⟨hh, hs⟩
  · obtain ⟨hpend, hdi, -, hreti, hother⟩ := enableTakesEffectAfterTheNextInstruction s _ u i hu ht
    refine enableLegal_of_not_pending ?_
    by_cases h1 : i = .di
    · exact (hdi h1).2
    · by_cases hp : s.cpu.imePending = true
      · exact (hpend hp h1).2
      · by_cases h2 : i = .reti
        · exact (hreti h2).2
        · exact (hother (Bool.eq_false_iff.mpr hp) hei h1 h2).2

theorem haltCheck_cpu (s : State) :
    (haltCheck s).cpu.imePending = s.cpu.imePending ∧ (haltCheck s).cpu.stop = s.cpu.stop ∧
      (s.cpu.halt = false → (haltCheck s).cpu.halt = false) := by
  unfold haltCheck
  dsimp only
  split
  · exact ⟨rfl, rfl, id⟩
  · exact ⟨rfl, rfl, fun _ => rfl⟩

theorem haltCheck_enableLegal {s : State} (h : s.enableLegal) : (haltCheck s).enableLegal := by
  obtain ⟨hpending, hstop, hhalt⟩ := haltCheck_cpu s
  intro hp
  obtain ⟨hh, hs⟩ := h (hpending.symm.trans hp)
  exact ⟨hhalt hh, hstop.trans hs⟩

theorem stoppedStep_pending (s : State) : (stoppedStep s).cpu.imePending = s.cpu.imePending := by
  cases hcgb : isCgb s with
  | true =>
    rw [stoppedStep_cgb hcgb]
    unfold speedSwitch
    split <;> rfl
  | false =>
    rw [stoppedStep_dmg hcgb]
    unfold stopWake
    split <;> split <;> rfl

theorem stepBody_enableLegal {s t : State} (h : stepBody s = .next t) (hs : s.enableLegal) : t.enableLegal := by
  rcases stepBody_next h with ⟨hstop, rfl⟩ | ⟨-, -, rfl⟩ | ⟨hstop, hhalt, u, hu, rfl⟩
  · exact enableLegal_of_not_pending ((stoppedStep_pending s).trans (not_pending_of_idle hs (.inr hstop)))
  · exact haltCheck_enableLegal hs
  · have hlegal := executePath_enableLegal hhalt hstop hu
    split
    · exact haltCheck_enableLegal hlegal
    · exact hlegal

theorem dispatch_enableLegal {s t : State} (h : dispatch s = .ok () t) (hs : s.enableLegal) : t.enableLegal := by
  rcases dispatch_ok h with rfl | ⟨-, -, -, i, -, ht⟩
  · exact hs
  · obtain ⟨u, hu, rfl⟩ := takeInterrupt_ok ht
    refine enableLegal_of_not_pending ?_
    show u.cpu.imePending = false
    rw [push16_cpu hu]
    rfl

/-- The devices leave the Processor alone. -/
theorem devices_cpu {c c' n : Nat} {u v : State} (h : ppuAdvance c u = .ok () v) :
    (flushAdvance (pollAdvance c' (timerPart n v))).cpu = u.cpu := by
  have htimer : (timerPart n v).cpu = v.cpu := by
    unfold timerPart
    split
    · rfl
    · rw [timerAdvance_frame]
  rw [flushAdvance_frame, pollAdvance_frame, htimer, ppuAdvance_frame h]

theorem step_enableLegal {s t : State} (h : step s = .next t) (hs : s.enableLegal) : t.enableLegal := by
  obtain ⟨-, u, v, hu, hv, rfl⟩ := step_next h
  rw [enableLegal_congr (devices_cpu hv)]
  obtain ⟨a, b, ha, hb, rfl⟩ := processorStep_next hu
  suffices hlegal : b.enableLegal from hlegal
  refine dispatch_enableLegal hb (stepBody_enableLegal ha ?_)
  show (bootHandover s).enableLegal
  rw [bootHandover_frame]
  exact hs

/-! ### The bank registers along a step (R88 to R91) -/

/-- The registers of the bank controller. -/
def bankRegisters (c : BusCtl) : BitVec 9 × BitVec 4 × Bool × Bool := (c.bankLo, c.bankHi, c.bankMode, c.eramEnabled)

theorem controllerLegal_congr {s t : State} (hsetup : t.setup = s.setup)
    (hbanks : bankRegisters t.ctl = bankRegisters s.ctl) : t.controllerLegal ↔ s.controllerLegal := by
  obtain ⟨hlo, hhi, hmode, hram⟩ := by simpa [bankRegisters] using hbanks
  rw [State.controllerLegal, State.controllerLegal, hsetup, hlo, hhi, hmode, hram]

/-- Each bank register is kept, or written as its controller does; only controller A has a mode. -/
theorem bankWrite_registers (addr : Word) (v : Byte) (s : State) :
    ((bankWrite addr v s).ctl.bankLo = s.ctl.bankLo ∨
        (bankWrite addr v s).ctl.bankLo = bankLoAfter s.setup.cart.ctrl addr v s.ctl.bankLo) ∧
      ((bankWrite addr v s).ctl.bankHi = s.ctl.bankHi ∨
        (bankWrite addr v s).ctl.bankHi = bankHiAfter s.setup.cart.ctrl v s.ctl.bankHi) ∧
      ((bankWrite addr v s).ctl.bankMode = s.ctl.bankMode ∨ s.setup.cart.ctrl = .a) := by
  unfold bankWrite
  dsimp only
  split
  · split <;> exact ⟨.inl rfl, .inl rfl, .inl rfl⟩
  · exact ⟨.inr rfl, .inl rfl, .inl rfl⟩
  · exact ⟨.inl rfl, .inr rfl, .inl rfl⟩
  · split
    · next hctrl => exact ⟨.inl rfl, .inl rfl, .inr hctrl⟩
    · exact ⟨.inl rfl, .inl rfl, .inl rfl⟩

/-- Every write region keeps the registers within the controller's width. -/
theorem bankWrite_controllerLegal {s : State} (hs : s.controllerLegal) (addr : Word) (v : Byte) :
    (bankWrite addr v s).controllerLegal := by
  have hsetup : (bankWrite addr v s).setup = s.setup := by rw [bankWrite_frame]
  obtain ⟨hlo, hhi, hmode⟩ := bankWrite_registers addr v s
  obtain ⟨hloA, hloB, -⟩ := bankLoAfter_toNat addr v s.ctl.bankLo
  obtain ⟨hhiA, hhiB, -⟩ := bankHiAfter_toNat v s.ctl.bankHi
  cases hctrl : s.setup.cart.ctrl with
  | none =>
    rw [bankWrite_none hctrl]
    exact hs
  | a =>
    simp only [State.controllerLegal, hsetup, hctrl] at hs hlo hhi ⊢
    refine ⟨?_, ?_⟩
    · rcases hlo with h | h <;> rw [h]
      · exact hs.1
      · omega
    · rcases hhi with h | h <;> rw [h]
      · exact hs.2
      · omega
  | b =>
    simp only [State.controllerLegal, hsetup, hctrl] at hs hlo hhi hmode ⊢
    refine ⟨?_, ?_, hmode.elim (·.trans hs.2.2) nofun⟩
    · rcases hlo with h | h <;> rw [h]
      · exact hs.1
      · omega
    · rcases hhi with h | h <;> rw [h]
      · exact hs.2.1
      · omega
  | c =>
    simp only [State.controllerLegal, hsetup, hctrl] at hs hmode ⊢
    exact hmode.elim (·.trans hs) nofun

/-- A write of the I/O window leaves the bank registers alone. -/
theorem ioWrite_banks {n : Nat} {v : Byte} {s t : State} (h : ioWrite n v s = .ok () t) :
    bankRegisters t.ctl = bankRegisters s.ctl := by
  rcases ioWrite_cases h with ⟨-, rfl⟩ | ⟨-, rfl⟩ | ⟨-, rfl⟩ | ⟨-, rfl⟩ | ⟨-, rfl⟩ | ⟨-, rfl⟩ | ⟨-, rfl⟩ | ⟨-, h⟩ |
    ⟨-, rfl⟩ | ⟨-, -, rfl⟩ | ⟨-, -, h⟩ | ⟨-, -, rfl⟩ | ⟨-, -, rfl⟩ | ⟨-, -, -, -, -, -, -, -, -, -, rfl⟩
  case inr.inl => rw [sbWrite_eq]
  case inr.inr.inr.inl => rw [lcdcWrite_frame]
  case inr.inr.inr.inr.inr.inr.inl => rw [lycWrite, coincidenceCheck_frame, setIo_ctl]
  case inr.inr.inr.inr.inr.inr.inr.inl => rw [dmaWrite_frame h]
  case inr.inr.inr.inr.inr.inr.inr.inr.inr.inr.inl => rw [hdma5Write_frame h]
  all_goals rfl

theorem writeByte_controllerLegal {s t : State} {addr : Word} {v : Byte} (h : writeByte s addr v = .ok () t)
    (hs : s.controllerLegal) : t.controllerLegal := by
  rcases writeByte_cases h with ⟨-, rfl⟩ | ⟨_, -, rfl⟩ | ⟨_, -, rfl⟩ | ⟨_, -, rfl⟩ | ⟨_, -, rfl⟩ | ⟨_, -, hio⟩ |
    ⟨_, -, rfl⟩ | ⟨-, rfl⟩
  case inl => exact bankWrite_controllerLegal hs addr v
  case inr.inr.inr.inr.inr.inl =>
    exact (controllerLegal_congr (writeByte_frame h).1 (ioWrite_banks hio)).mpr hs
  all_goals exact (controllerLegal_congr rfl rfl).mpr hs

theorem controllerLegal_step : KeptByStep State.controllerLegal where
  cpu s t h hs := by
    rw [h]
    exact hs
  write _ _ _ _ h hs := writeByte_controllerLegal h hs
  io _ _ _ _ hs := hs
  host _ _ hs := hs
  ppu _ _ _ h hs := by
    rw [ppuAdvance_frame h]
    exact hs
  timer _ _ hs := by
    rw [timerAdvance_frame]
    exact hs
  sched _ _ hs := hs
  dirty _ _ hs := hs

/-- Settles O58: only a write below `0x8000` changes the bank registers, and only `EI` leaves an enable pending. -/
theorem stepKeepsTheControlLegal : Obligations.StepKeepsTheControlLegal :=
  fun _ _ hc he h => ⟨controllerLegal_step.machineStep h hc, step_enableLegal h he⟩

end Sys2Proof.Claims
end

section
/-! PROOFS. The reset state: the cartridge record, the `RESET` record and the invariants it meets (R9, R470 to R473). -/

namespace Sys2Proof

/-! ### The cartridge record (R9, R34) -/

/-- The byte of a memory made from a list is that of the list. -/
theorem Memory.get_ofBytesFrom (bytes : List Byte) (base k : Nat) :
    Memory.get (Memory.ofBytesFrom base bytes) (base + k) = bytes.getD k 0 := by
  induction bytes generalizing base k with
  | nil => rfl
  | cons b rest ih =>
    unfold Memory.ofBytesFrom
    cases k with
    | zero =>
      split
      · next hb => exact (Memory.get_below (Memory.ofBytesFrom_rising (base + 1) rest) (Nat.lt_succ_self base)).trans hb.symm
      · rw [Memory.get_cons, if_neg (by omega), if_pos (by omega)]
        rfl
    | succ k =>
      have hk := ih (base + 1) k
      rw [Nat.add_right_comm, Nat.add_assoc] at hk
      split
      · exact hk
      · rw [Memory.get_cons, if_neg (by omega), if_neg (by omega)]
        exact hk

theorem eq_two_pow_log2_iff (n : Nat) : n = 2 ^ Nat.log2 n ↔ ∃ k, n = 2 ^ k := by
  constructor
  · exact fun h => ⟨_, h⟩
  · rintro ⟨k, rfl⟩
    rw [Nat.log2_two_pow]

/-- What R9 demands, spelled out. -/
theorem Cart.wf_iff (c : Cart) :
    c.wf = true ↔ 2 ≤ c.romBanks ∧ (∃ k, c.romBanks = 2 ^ k) ∧ c.rom.wf = true ∧
      (∀ cell ∈ c.rom, cell.1 < c.romBanks * 0x4000) ∧ (c.ramBytes = 2048 ∨ c.ramBytes % 8192 = 0) ∧
      (∀ bytes, c.save = some bytes → bytes.length = c.ramBytes) := by
  rw [← eq_two_pow_log2_iff]
  cases hs : c.save with
  | none =>
    simp only [Cart.wf, Memory.within, hs, Bool.and_eq_true, Bool.or_eq_true, decide_eq_true_eq, beq_iff_eq,
      List.all_eq_true]
    tauto
  | some bytes =>
    simp only [Cart.wf, Memory.within, hs, Bool.and_eq_true, Bool.or_eq_true, decide_eq_true_eq, beq_iff_eq,
      List.all_eq_true, Option.some.injEq, forall_eq']
    tauto

end Sys2Proof

namespace Sys2Proof.Claims

open Sys2Proof.Machine

variable {su : Setup}

/-! ### The columns of the `RESET` record (R471) -/

/-- With the table of R471 every column holds the common values, with the control flags clear, and the I/O bytes of its
kind. -/
theorem resetColumn_default (h : su.reset = defaultReset) :
    ∃ cpu io, resetColumn su = resetCommon cpu io ∧
      (su.boot = none ∧ io = ioNoBoot ∨ su.boot ≠ none ∧ io = [(0x41, 0x04)]) ∧
      cpu = { Cpu.zero with
        a := cpu.a, flags := cpu.flags, b := cpu.b, c := cpu.c, d := cpu.d, e := cpu.e, h := cpu.h, l := cpu.l
        sp := cpu.sp, pc := cpu.pc } := by
  unfold resetColumn
  rw [h]
  split
  · next hb => exact ⟨_, _, rfl, .inr ⟨by rw [hb]; nofun, rfl⟩, rfl⟩
  · next hb _ => exact ⟨_, _, rfl, .inl ⟨hb, rfl⟩, rfl⟩
  · next hb _ => exact ⟨_, _, rfl, .inl ⟨hb, rfl⟩, rfl⟩

/-- The reset state is the column with external RAM and the boot bits set after it (R470). -/
structure IsReset (su : Setup) (column : ResetValues) (s : State) : Prop where
  setup : s.setup = su
  cpu : s.cpu = column.cpu
  mem : s.mem = { column.mem with eram := su.cart.initialRam }
  ctl : s.ctl = { column.ctl with bootActive := su.boot.isSome }
  timer : s.timer = column.timer
  ppu : s.ppu = column.ppu
  hdma : s.hdma = column.hdma
  sched : s.sched = { column.sched with bootWatch := su.boot.isSome }
  host : s.host =
    { keys := column.keys, polls := [], stopWakes := [], flushes := [], serialOut := [], frameCount := 0,
      frameOut := none, saveOut := none, ended := false }
  fault : s.fault = none

theorem isReset (su : Setup) : IsReset su (resetColumn su) (State.resetWith su) :=
  ⟨rfl, rfl, rfl, rfl, rfl, rfl, rfl, rfl, rfl, rfl⟩

theorem powerOn_of_wf (h : su.wf = true) : powerOn su = .next (State.resetWith su) := by
  rw [Setup.wf, Bool.and_eq_true] at h
  rw [powerOn, if_neg (by simp [h.1]), if_neg (by simp [h.2])]

theorem parameters_of_wf (h : su.wf = true) : su.display.wf = true ∧ su.periods.wf = true := by
  simp only [Setup.wf, Setup.parametersWf, Bool.and_eq_true] at h
  exact ⟨h.2.1.2, h.2.1.1.2⟩

/-- The reset state meets every invariant the steps keep. -/
theorem resetWith_invariants (hwf : su.wf = true) (h : su.reset = defaultReset) :
    (State.resetWith su).mem.canonical = true ∧ (State.resetWith su).ppuLegal ∧ (State.resetWith su).timerLegal ∧
      (State.resetWith su).hdmaLegal ∧ (State.resetWith su).controllerLegal ∧ (State.resetWith su).enableLegal ∧
      (State.resetWith su).executing := by
  obtain ⟨cpu, io, hcol, hio, hcpu⟩ := resetColumn_default h
  obtain ⟨hdisplay, hperiods⟩ := parameters_of_wf hwf
  have hreset := isReset su
  rw [hcol] at hreset
  generalize State.resetWith su = s at hreset
  have hdisplay : s.setup.display.wf = true := hreset.setup ▸ hdisplay
  have hperiods : s.setup.periods.wf = true := hreset.setup ▸ hperiods
  have hsio : s.mem.io = io := by rw [hreset.mem]; rfl
  have hscpu : s.cpu = cpu := hreset.cpu
  have hly : ly s = 0 := by
    rw [ly, Machine.io, hsio]
    rcases hio with ⟨-, rfl⟩ | ⟨-, rfl⟩ <;> rfl
  have hmode : ppuMode s ≠ .vBlank := by
    rw [ppuMode, stat, Machine.io, hsio]
    rcases hio with ⟨-, rfl⟩ | ⟨-, rfl⟩ <;> decide
  have hio_wf : io.wf = true := by rcases hio with ⟨-, rfl⟩ | ⟨-, rfl⟩ <;> decide
  refine ⟨?_, ?_, ⟨?_, ?_⟩, ?_, ?_, ?_, ⟨⟨hreset.fault, ?_⟩, ?_, ?_⟩⟩
  · rw [hreset.mem]
    simp only [Mems.canonical, resetCommon, Cart.initialRam_wf, hio_wf]
    rfl
  · have hpos := modeCycles_pos hdisplay (ppuMode s)
    simp only [Display.wf, Bool.and_eq_true, decide_eq_true_eq] at hdisplay
    obtain ⟨⟨⟨⟨-, hvisible⟩, hlines⟩, -⟩, -⟩ := hdisplay
    refine ⟨?_, ⟨fun h => absurd h hmode, fun h => absurd h ?_⟩, ?_⟩
    · rw [hly]
      exact Nat.lt_trans hvisible hlines
    · rw [hly]
      exact Nat.not_le.mpr hvisible
    · rw [hreset.ppu]
      exact hpos
  · rw [hreset.timer]
    exact divPeriod_pos hperiods
  · rw [hreset.timer]
    exact timaPeriod_pos hperiods _
  · have hhdma : s.hdma = ⟨0, 0x8000, 0, false⟩ := hreset.hdma
    rw [State.hdmaLegal, hhdma]
    exact ⟨rfl, Nat.zero_le _, nofun, rfl, rfl, by decide, by decide⟩
  · have hctl : s.ctl = ⟨0, 0, false, false, false, su.boot.isSome, 0⟩ := hreset.ctl
    rw [State.controllerLegal, hctl]
    split
    · exact ⟨rfl, rfl, rfl, rfl⟩
    · exact ⟨(by decide : 0 < 32), (by decide : 0 < 4)⟩
    · exact ⟨(by decide : 0 < 128), (by decide : 0 < 4), rfl⟩
    · rfl
  · refine enableLegal_of_not_pending ?_
    rw [hscpu, hcpu]
    rfl
  · rw [hreset.host]
  · rw [hscpu, hcpu]
    rfl
  · rw [hscpu, hcpu]
    rfl

/-- Settles O59: the checks of `powerOn`, and the invariants by the values of the columns. -/
theorem resetMeetsTheInvariants : Obligations.ResetMeetsTheInvariants :=
  fun su => ⟨fun h => if_pos h, Cart.wf_iff su.cart, fun hwf => ⟨powerOn_of_wf hwf, resetWith_invariants hwf⟩⟩

/-! ### The values (R471) -/

theorem resetColumn_eq (su : Setup) :
    resetColumn su = if su.boot.isSome then su.reset.boot
      else if su.variant = .dmg then su.reset.noBootDmg else su.reset.noBootCgb := by
  unfold resetColumn
  split
  · next hb => rw [hb]; rfl
  · next hb hv => rw [hb, hv]; rfl
  · next hb hv => rw [hb, hv]; rfl

/-- External RAM starts as the persisted bytes where they are of its size, else as zeros (R34, R470). -/
theorem initialRam_of_save {c : Cart} {bytes : List Byte} (h : c.save = some bytes) (hlen : bytes.length = c.ramBytes) :
    c.initialRam = Memory.ofBytesFrom 0 bytes := by
  simp only [Cart.initialRam, h]
  exact if_pos hlen

theorem initialRam_eq_nil {c : Cart} (h : c.save = none ∨ ∃ bytes, c.save = some bytes ∧ bytes.length ≠ c.ramBytes) :
    c.initialRam = [] := by
  rcases h with h | ⟨bytes, h, hlen⟩
  · simp only [Cart.initialRam, h]
  · simp only [Cart.initialRam, h]
    exact if_neg hlen

/-- The I/O bytes of both kinds of column, but for the five the table names. -/
theorem resetIo_get {n : Nat} (hn : n ∉ [0x40, 0x41, 0x47, 0x48, 0x49]) :
    Memory.get ioNoBoot n = 0 ∧ Memory.get [(0x41, 0x04)] n = 0 := by
  simp only [List.mem_cons, List.not_mem_nil, or_false, not_or] at hn
  obtain ⟨h0, h1, h2, h3, h4⟩ := hn
  simp only [ioNoBoot, Memory.get_cons, h0, h1, h2, h3, h4, if_false, Memory.get_nil]
  simp only [Memory.unlisted, ite_self, and_self]

section
variable {s : State}

/-- The display registers of the columns without a boot image. -/
theorem display_of_ioNoBoot (h : s.mem.io = ioNoBoot) :
    lcdc s = 0x91 ∧ stat s = 0x06 ∧ bgp s = 0xFC ∧ obp0 s = 0xFF ∧ obp1 s = 0xFF ∧ ppuMode s = .oamSearch := by
  simp only [lcdc, stat, bgp, obp0, obp1, ppuMode, Machine.io, h]
  decide

/-- The display registers of the column with one. -/
theorem display_of_boot (h : s.mem.io = [(0x41, 0x04)]) :
    lcdc s = 0 ∧ stat s = 0x04 ∧ bgp s = 0 ∧ obp0 s = 0 ∧ obp1 s = 0 ∧ ppuMode s = .hBlank := by
  simp only [lcdc, stat, bgp, obp0, obp1, ppuMode, Machine.io, h]
  decide

/-- With the bank bytes of the I/O window zero the fixed banks are selected, in single speed. -/
theorem banks_of_io_zero (hvbk : io s 0x4F = 0) (hsvbk : io s 0x70 = 0) (hkey1 : io s 0x4D = 0) :
    vramBank s = 0 ∧ wramBank s = 1 ∧ speed s = 0 := by
  simp [vramBank, wramBank, speed, key1, hvbk, hsvbk, hkey1]

/-- With the bank registers zero every controller composes bank 0, which R92 makes ROM bank 1. -/
theorem banks_of_ctl_zero (hlo : s.ctl.bankLo = 0) (hhi : s.ctl.bankHi = 0) :
    (2 ≤ s.setup.cart.romBanks → romBank s = 1) ∧ ramBank s = 0 := by
  have hcomposed : composedBanks s = (0, 0) := by
    unfold composedBanks
    rw [hlo, hhi]
    split
    · rfl
    · split <;> rfl
    · rfl
    · rfl
  unfold romBank ramBank
  rw [hcomposed]
  exact ⟨fun h => Nat.mod_eq_of_lt h, Nat.zero_mod _⟩

end

theorem resetColumn_cases (h : su.reset = defaultReset) :
    (su.boot = none → su.variant = .dmg → resetColumn su = defaultReset.noBootDmg) ∧
      (su.boot = none → su.variant = .cgb → resetColumn su = defaultReset.noBootCgb) ∧
      (su.boot ≠ none → resetColumn su = defaultReset.boot) := by
  rw [resetColumn_eq, h]
  refine ⟨fun hb hv => ?_, fun hb hv => ?_, fun hb => if_pos (Option.isSome_iff_ne_none.mpr hb)⟩
  · rw [hb, hv]
    rfl
  · rw [hb, hv]
    rfl

/-- Settles O60: the reset state is the column's, and the columns are read off the table. -/
theorem resetValuesFollowTheResetRecord : Obligations.ResetValuesFollowTheResetRecord := by
  rintro su s rfl
  have hreset := isReset su
  generalize State.resetWith su = s at hreset
  have heram : s.mem.eram = su.cart.initialRam := by rw [hreset.mem]
  refine ⟨?_, ?_, ?_, fun hdef => ?_⟩
  · rintro column rfl
    rw [← resetColumn_eq su]
    refine ⟨hreset.setup, hreset.cpu, ?_, hreset.ctl, hreset.timer, hreset.ppu, hreset.hdma, hreset.sched, hreset.fault, ?_⟩
    · rw [heram]
      exact hreset.mem
    · rw [hreset.host]
      exact ⟨rfl, rfl, rfl, rfl, rfl, rfl, rfl, rfl, rfl⟩
  · intro bytes hsave hlen k
    have hget := Memory.get_ofBytesFrom bytes 0 k
    rw [Nat.zero_add] at hget
    rw [heram, initialRam_of_save hsave hlen, hget]
  · exact fun h => heram.trans (initialRam_eq_nil h)
  · obtain ⟨hdmg, hcgb, hboot⟩ := resetColumn_cases hdef
    have hcpu := hreset.cpu
    have hio : s.mem.io = (resetColumn su).mem.io := by rw [hreset.mem]
    refine ⟨fun hb hv => ?_, fun hb hv => ?_, fun hb => ?_, fun hb => ?_, ?_⟩
    · rw [hdmg hb hv] at hcpu
      simp only [reg16, hcpu]
      decide
    · rw [hcgb hb hv] at hcpu
      simp only [reg16, hcpu]
      decide
    · cases hv : su.variant with
      | dmg =>
        rw [hdmg hb hv] at hcpu hio
        rw [hcpu]
        exact ⟨rfl, rfl, display_of_ioNoBoot hio⟩
      | cgb =>
        rw [hcgb hb hv] at hcpu hio
        rw [hcpu]
        exact ⟨rfl, rfl, display_of_ioNoBoot hio⟩
    · rw [hboot hb] at hcpu hio
      simp only [reg16, hcpu]
      exact ⟨by decide, by decide, by decide, by decide, rfl, rfl, display_of_boot hio⟩
    · obtain ⟨cpu, io, hcol, hcases, hclear⟩ := resetColumn_default hdef
      rw [hcol] at hreset hio
      have hget : ∀ n, n ∉ [0x40, 0x41, 0x47, 0x48, 0x49] → Machine.io s n = 0 := by
        intro n hn
        rw [Machine.io, hio]
        rcases hcases with ⟨-, rfl⟩ | ⟨-, rfl⟩
        · exact (resetIo_get hn).1
        · exact (resetIo_get hn).2
      have hscpu : s.cpu = cpu := hreset.cpu
      have hctl : s.ctl = ⟨0, 0, false, false, false, su.boot.isSome, 0⟩ := hreset.ctl
      obtain ⟨hvram, hwram, hspeed⟩ := banks_of_io_zero (hget 0x4F (by decide)) (hget 0x70 (by decide))
        (hget 0x4D (by decide))
      obtain ⟨hrom, hram⟩ := banks_of_ctl_zero (s := s) (by rw [hctl]) (by rw [hctl])
      rw [hreset.setup] at hrom
      rw [hscpu, hclear, hreset.mem, hctl]
      refine ⟨rfl, rfl, rfl, rfl, rfl, rfl, rfl, hget 0x0F (by decide), hget,
        fun k => ⟨rfl, rfl, rfl, rfl, rfl, rfl⟩, rfl, rfl, rfl, rfl, rfl, rfl, hvram, hwram, hspeed, hrom, hram,
        hreset.timer, ?_, hreset.hdma, ?_, ?_⟩
      · rw [hreset.ppu]
        rfl
      · rw [hreset.sched]
        rfl
      · rw [hreset.host]
        rfl

end Sys2Proof.Claims
end

section
/-! PROOFS. The display modes follow their schedule (R411, R412, R414, R420, R446, R453). -/

namespace Sys2Proof.Machine

/-! ### A run of no and of one transition -/

theorem ppuRun_idle {n : Nat} {s : State} (h : s.ppu.cyc < modeCycles s (ppuMode s)) : ppuRun n s = .ok () s := by
  cases n with
  | zero => rfl
  | succ n => exact if_neg (Nat.not_le.mpr h)

theorem ppuRun_one {n : Nat} {s t : State} (h : modeCycles s (ppuMode s) ≤ s.ppu.cyc) (ht : ppuTransition s = .ok () t)
    (hidle : t.ppu.cyc < modeCycles t (ppuMode t)) : ppuRun (n + 1) s = .ok () t := by
  rw [ppuRun, if_pos h, ht]
  exact ppuRun_idle hidle

theorem ppuRun_fatal {n : Nat} {s t : State} {bad : Word} (h : modeCycles s (ppuMode s) ≤ s.ppu.cyc)
    (ht : ppuTransition s = .fatal bad t) : ppuRun (n + 1) s = .fatal bad t := by
  rw [ppuRun, if_pos h, ht]

section
variable {s : State} {c : Nat}

theorem ppuAdvance_off (h : (lcdc s).getLsbD 7 = false) : ppuAdvance c s = .ok () s := if_neg (Bool.eq_false_iff.mp h)

theorem ppuAdvance_on (h : (lcdc s).getLsbD 7 = true) :
    ppuAdvance c s = ppuRun (s.ppu.cyc + c + 1) (setPpuCyc (s.ppu.cyc + c) s) := if_pos h

theorem ppuAdvance_idle (h : (lcdc s).getLsbD 7 = true) (hc : s.ppu.cyc + c < modeCycles s (ppuMode s)) :
    ppuAdvance c s = .ok () (setPpuCyc (s.ppu.cyc + c) s) :=
  (ppuAdvance_on h).trans (ppuRun_idle (s := setPpuCyc (s.ppu.cyc + c) s) hc)

/-- The state in which the transition at the end of the mode runs. -/
def atModeEnd (c : Nat) (s : State) : State := setPpuCyc (s.ppu.cyc + c - modeCycles s (ppuMode s)) s

theorem paid_setPpuCyc (s : State) (c : Nat) : paid (setPpuCyc (s.ppu.cyc + c) s) = atModeEnd c s := rfl

theorem ppuAdvance_one {t : State} (h : (lcdc s).getLsbD 7 = true) (hc : modeCycles s (ppuMode s) ≤ s.ppu.cyc + c)
    (ht : ppuTransition (setPpuCyc (s.ppu.cyc + c) s) = .ok () t) (hidle : t.ppu.cyc < modeCycles t (ppuMode t)) :
    ppuAdvance c s = .ok () t :=
  (ppuAdvance_on h).trans (ppuRun_one (s := setPpuCyc (s.ppu.cyc + c) s) hc ht hidle)

theorem ppuAdvance_fatal {t : State} {bad : Word} (h : (lcdc s).getLsbD 7 = true)
    (hc : modeCycles s (ppuMode s) ≤ s.ppu.cyc + c)
    (ht : ppuTransition (setPpuCyc (s.ppu.cyc + c) s) = .fatal bad t) : ppuAdvance c s = .fatal bad t :=
  (ppuAdvance_on h).trans (ppuRun_fatal (s := setPpuCyc (s.ppu.cyc + c) s) hc ht)

/-- Rendering does not read the mode's cycles. -/
theorem renderScanline_setPpuCyc (line n : Nat) (s : State) :
    (renderScanline line (setPpuCyc n s)).ppu = { (renderScanline line s).ppu with cyc := n } := rfl

end

end Sys2Proof.Machine

namespace Sys2Proof.Claims

open Sys2Proof.Machine

section
variable {s : State} {c : Nat}

/-! ### OAM-search -/

theorem leaveOamSearch_onlyDisplay {p : State} (hw : p.mem.io.wf = true) :
    ppuMode (leaveOamSearch p) = .pixelTransfer ∧
      (∀ k, k < 8 → 2 ≤ k → (stat (leaveOamSearch p)).getLsbD k = (stat p).getLsbD k) ∧
      IoStep p (leaveOamSearch p) [0x41] :=
  ⟨ppuMode_setMode hw _, fun _ hk h2 => getLsbD_stat_setMode hw _ hk h2, ioStep_setMode hw _⟩

/-- The end of OAM-search is the mode alone. -/
theorem oamSearch_ends (hw : s.mem.io.wf = true) (hon : (lcdc s).getLsbD 7 = true) (hmode : ppuMode s = .oamSearch)
    (hle : s.setup.display.oam ≤ s.ppu.cyc + c)
    (hlt : s.ppu.cyc + c < s.setup.display.oam + s.setup.display.xfer) :
    ∃ t, ppuAdvance c s = .ok () t ∧ ppuMode t = .pixelTransfer ∧ (stat t).getLsbD 2 = (stat s).getLsbD 2 ∧
      onlyDisplay s t { s.ppu with cyc := s.ppu.cyc + c - s.setup.display.oam } s.host [0x41] := by
  have hcyc : modeCycles s (ppuMode s) = s.setup.display.oam := by rw [hmode]; rfl
  obtain ⟨hnew, hstat, hio⟩ := leaveOamSearch_onlyDisplay (p := atModeEnd c s) hw
  have ht : ppuTransition (setPpuCyc (s.ppu.cyc + c) s) = .ok () (leaveOamSearch (atModeEnd c s)) :=
    (ppuTransition_eq (setPpuCyc (s.ppu.cyc + c) s)).1 hmode
  refine ⟨_, ppuAdvance_one hon (hcyc ▸ hle) ht ?_, hnew, hstat 2 (by decide) (by decide), ?_, fun n hn => hio.io_eq hn,
    fun j hj hj8 => hstat j hj8 (by omega)⟩
  · rw [hnew]
    show s.ppu.cyc + c - modeCycles s (ppuMode s) < s.setup.display.xfer
    omega
  · rw [← hcyc]
    rfl

/-! ### Pixel-transfer -/

/-- The state that the end of pixel-transfer reaches before its H-blank DMA step. -/
def atHBlank (c : Nat) (s : State) : State := enterHBlank (atModeEnd c s)

theorem pixelTransfer_transition (hmode : ppuMode s = .pixelTransfer) :
    ppuTransition (setPpuCyc (s.ppu.cyc + c) s) = leavePixelTransfer (atModeEnd c s) :=
  (ppuTransition_eq (setPpuCyc (s.ppu.cyc + c) s)).2.1 hmode

theorem atHBlank_onlyDisplay (hw : s.mem.io.wf = true) :
    onlyDisplay s (atHBlank c s)
      { (renderScanline (ly s).toNat s).ppu with cyc := s.ppu.cyc + c - modeCycles s (ppuMode s) } s.host [0x0F, 0x41] := by
  obtain ⟨hio, -, hstat, -⟩ := enterHBlank_spec (s := atModeEnd c s) hw
  refine ⟨?_, fun n hn => hio.io_eq fun hmem => hn ?_, fun j hj hj8 => hstat j hj8 (by omega)⟩
  · have hframe := enterHBlank_frame (atModeEnd c s)
    rw [atHBlank, hframe]
    rfl
  · simp only [List.mem_cons, List.not_mem_nil, or_false] at hmem ⊢
    exact hmem.symm

/-- The end of pixel-transfer renders the line and enters H-blank; an active transfer moves a chunk. -/
theorem pixelTransfer_ends (hw : s.mem.io.wf = true) (hon : (lcdc s).getLsbD 7 = true)
    (hmode : ppuMode s = .pixelTransfer) (hle : s.setup.display.xfer ≤ s.ppu.cyc + c)
    (hlt : s.ppu.cyc + c < s.setup.display.xfer + s.setup.display.hblank) :
    ∃ u, ppuMode u = .hBlank ∧ (stat u).getLsbD 2 = (stat s).getLsbD 2 ∧
      ((stat s).getLsbD 3 = true → bitAdded 1 (ifReg s) (ifReg u)) ∧
      ((stat s).getLsbD 3 = false → ifReg u = ifReg s) ∧
      onlyDisplay s u { (renderScanline (ly s).toNat s).ppu with cyc := s.ppu.cyc + c - s.setup.display.xfer } s.host
        [0x0F, 0x41] ∧
      (isCgb s = false ∨ s.hdma.active = false → ppuAdvance c s = .ok () u) ∧
      (isCgb s = true → s.hdma.active = true →
        (∀ t, hdmaStep u = .ok () t → ppuAdvance c s = .ok () t) ∧
        (∀ bad t, hdmaStep u = .fatal bad t → ppuAdvance c s = .fatal bad t)) := by
  have hcyc : modeCycles s (ppuMode s) = s.setup.display.xfer := by rw [hmode]; rfl
  obtain ⟨-, hnew, hstat, hif⟩ := enterHBlank_spec (s := atModeEnd c s) hw
  have honly := atHBlank_onlyDisplay (c := c) hw
  rw [hcyc] at honly
  have hu := honly.1
  have hcgb : isCgb (atHBlank c s) = isCgb s := by rw [hu]; rfl
  have hactive : (atHBlank c s).hdma.active = s.hdma.active := by rw [hu]
  have hidle : ∀ t : State, t.ppu = (atHBlank c s).ppu → t.setup = s.setup → ppuMode t = .hBlank →
      t.ppu.cyc < modeCycles t (ppuMode t) := by
    intro t hppu hsetup hm
    rw [hm, hppu, hu]
    show s.ppu.cyc + c - s.setup.display.xfer < t.setup.display.hblank
    rw [hsetup]
    omega
  have hleave : ppuTransition (setPpuCyc (s.ppu.cyc + c) s) =
      if isCgb (atHBlank c s) = true ∧ (atHBlank c s).hdma.active = true then hdmaStep (atHBlank c s)
      else .ok () (atHBlank c s) :=
    (pixelTransfer_transition hmode).trans (leavePixelTransfer_eq _)
  rw [hcgb, hactive] at hleave
  refine ⟨atHBlank c s, hnew, hstat 2 (by decide) (by decide), fun h3 k hk => ?_, fun h3 => ?_, honly, fun hno => ?_,
    fun hc ha => ⟨fun t ht => ?_, fun bad t ht => ?_⟩⟩
  · refine (hif k hk).trans ?_
    rw [show (stat (atModeEnd c s)).getLsbD 3 = true from h3, Bool.true_and]
    rfl
  · refine BitVec.eq_of_getLsbD_eq fun k hk => (hif k hk).trans ?_
    rw [show (stat (atModeEnd c s)).getLsbD 3 = false from h3, Bool.false_and, Bool.or_false]
    rfl
  · rw [if_neg] at hleave
    · exact ppuAdvance_one hon (hcyc ▸ hle) hleave (hidle _ rfl (by rw [hu]) hnew)
    · rintro ⟨hc, ha⟩
      simp [hc, ha] at hno
  · rw [if_pos ⟨hc, ha⟩, ht] at hleave
    have hframe := hdmaStep_frame ht
    refine ppuAdvance_one hon (hcyc ▸ hle) hleave (hidle t (by rw [hframe]) (by rw [hframe, hu]) ?_)
    rw [hframe]
    exact hnew
  · rw [if_pos ⟨hc, ha⟩, ht] at hleave
    exact ppuAdvance_fatal hon (hcyc ▸ hle) hleave

/-! ### H-blank -/

theorem mem_displayBytes {n : Nat} (h : n ∉ [0x0F, 0x41, 0x44]) : n ∉ [0x44, 0x41, 0x0F] := by
  simpa [and_comm, and_assoc, not_or, and_left_comm] using h

/-- The end of H-blank goes to the next line, or hands the frame over and enters V-blank. -/
theorem hBlank_ends (hw : s.mem.io.wf = true) (hd : s.setup.display.wf = true) (hlegal : s.ppuLegal)
    (hon : (lcdc s).getLsbD 7 = true) (hmode : ppuMode s = .hBlank) (hle : s.setup.display.hblank ≤ s.ppu.cyc + c)
    (hlt : s.ppu.cyc + c < s.setup.display.hblank + min s.setup.display.oam s.setup.display.line) :
    ∃ t, ppuAdvance c s = .ok () t ∧ (ly t).toNat = (ly s).toNat + 1 ∧
      ((ly s).toNat + 1 < s.setup.display.visible →
        ppuMode t = .oamSearch ∧ (ifReg t).getLsbD 0 = (ifReg s).getLsbD 0) ∧
      ((ly s).toNat + 1 = s.setup.display.visible → ppuMode t = .vBlank ∧ (ifReg t).getLsbD 0 = true) ∧
      ((stat t).getLsbD 2 = true ↔ ly t = lyc s) ∧
      ((ifReg t).getLsbD 1 = true ↔ (ifReg s).getLsbD 1 = true ∨ (ly t = lyc s ∧ (stat s).getLsbD 6 = true) ∨
        (stat s).getLsbD (if (ly s).toNat + 1 = s.setup.display.visible then 4 else 5) = true) ∧
      (∀ j, 2 ≤ j → j < 8 → (ifReg t).getLsbD j = (ifReg s).getLsbD j) ∧
      onlyDisplay s t { s.ppu with cyc := s.ppu.cyc + c - s.setup.display.hblank }
        (if (ly s).toNat + 1 = s.setup.display.visible then
          { s.host with frameCount := s.host.frameCount + 1, frameOut := some s.ppu.frame }
        else s.host)
        [0x0F, 0x41, 0x44] := by
  obtain ⟨-, hlines, hmax⟩ := display_lines hd
  have hcyc : modeCycles s (ppuMode s) = s.setup.display.hblank := by rw [hmode]; rfl
  have hvisible : (ly s).toNat < s.setup.display.visible :=
    OnSchedule.visible ⟨hlegal.1, hlegal.2.1⟩ (by rw [hmode]; decide)
  have hnext := next_line_toNat (s := s) (by omega)
  have ht : ppuTransition (setPpuCyc (s.ppu.cyc + c) s) = .ok () (leaveHBlank (atModeEnd c s)) :=
    (ppuTransition_eq (setPpuCyc (s.ppu.cyc + c) s)).2.2.1 hmode
  have hspec := leaveHBlank_spec (s := atModeEnd c s) hw
  have hframe := leaveHBlank_frame (s := atModeEnd c s) hw
  have hlyp : ly (atModeEnd c s) = ly s := rfl
  have hlycp : lyc (atModeEnd c s) = lyc s := rfl
  have hstatp : stat (atModeEnd c s) = stat s := rfl
  have hifp : ifReg (atModeEnd c s) = ifReg s := rfl
  have hdp : (atModeEnd c s).setup.display.visible = s.setup.display.visible := rfl
  rw [hlyp, hlycp, hstatp, hifp, hdp, hnext] at hspec
  rw [hlyp, hdp, hnext] at hframe
  obtain ⟨hio, hly, hm, hstat, hif⟩ := hspec
  generalize leaveHBlank (atModeEnd c s) = t at *
  refine ⟨t, ppuAdvance_one hon (hcyc ▸ hle) ht ?_, by rw [hly, hnext], fun hv => ⟨?_, ?_⟩, fun hv => ⟨?_, ?_⟩, ?_, ?_,
    fun j hj hj8 => ?_, ?_, fun n hn => hio.io_eq (mem_displayBytes hn), fun j hj hj8 => ?_⟩
  · have hppu : t.ppu.cyc = s.ppu.cyc + c - modeCycles s (ppuMode s) := congrArg (·.ppu.cyc) hframe
    have hsetup : t.setup = s.setup := by rw [hframe]; rfl
    rw [hppu, hcyc, hm]
    split
    · show _ < t.setup.display.line
      rw [hsetup]
      omega
    · show _ < t.setup.display.oam
      rw [hsetup]
      omega
  · rw [hm, if_neg (by omega)]
  · rw [hif 0 (by decide), decide_eq_false (by omega)]
    simp
  · rw [hm, if_pos hv]
  · rw [hif 0 (by decide), decide_eq_true hv]
    simp
  · rw [hstat 2 (by decide) (by decide), if_pos rfl, decide_eq_true_iff, hly]
  · rw [hif 1 (by decide), hly]
    simp
  · rw [hif j hj8, beq_false_of_ne (show j ≠ 0 by omega), beq_false_of_ne (show j ≠ 1 by omega)]
    simp
  · rw [← hcyc]
    exact hframe
  · rw [hstat j hj8 (by omega), if_neg (by omega)]

/-! ### V-blank -/

/-- The end of a line of V-blank goes to the next line, or back to line 0. -/
theorem vBlank_ends (hw : s.mem.io.wf = true) (hd : s.setup.display.wf = true)
    (hon : (lcdc s).getLsbD 7 = true) (hmode : ppuMode s = .vBlank) (hle : s.setup.display.line ≤ s.ppu.cyc + c)
    (hlt : s.ppu.cyc + c < s.setup.display.line + min s.setup.display.oam s.setup.display.line) :
    ∃ t, ppuAdvance c s = .ok () t ∧
      ((ly s).toNat + 1 < s.setup.display.lines → (ly t).toNat = (ly s).toNat + 1 ∧ ppuMode t = .vBlank) ∧
      ((ly s).toNat + 1 = s.setup.display.lines → ly t = 0 ∧ ppuMode t = .oamSearch) ∧
      ((stat t).getLsbD 2 = true ↔ ly t = lyc s) ∧
      ((ifReg t).getLsbD 1 = true ↔ (ifReg s).getLsbD 1 = true ∨ (ly t = lyc s ∧ (stat s).getLsbD 6 = true) ∨
        ((ly s).toNat + 1 = s.setup.display.lines ∧ (stat s).getLsbD 5 = true)) ∧
      (∀ j, j ≠ 1 → j < 8 → (ifReg t).getLsbD j = (ifReg s).getLsbD j) ∧
      onlyDisplay s t { s.ppu with cyc := s.ppu.cyc + c - s.setup.display.line } s.host [0x0F, 0x41, 0x44] := by
  obtain ⟨-, hlines, hmax⟩ := display_lines hd
  have hcyc : modeCycles s (ppuMode s) = s.setup.display.line := by rw [hmode]; rfl
  have ht : ppuTransition (setPpuCyc (s.ppu.cyc + c) s) = .ok () (leaveVBlankLine (atModeEnd c s)) :=
    (ppuTransition_eq (setPpuCyc (s.ppu.cyc + c) s)).2.2.2 hmode
  have hframe := leaveVBlankLine_frame (atModeEnd c s)
  obtain ⟨v, hv⟩ : ∃ v, v = if (ly s).toNat + 1 = s.setup.display.lines then 0 else ly s + 1 := ⟨_, rfl⟩
  have hspec := leaveVBlankLine_spec (s := atModeEnd c s) hw (v := v) hv
  have hlyp : ly (atModeEnd c s) = ly s := rfl
  have hlycp : lyc (atModeEnd c s) = lyc s := rfl
  have hstatp : stat (atModeEnd c s) = stat s := rfl
  have hifp : ifReg (atModeEnd c s) = ifReg s := rfl
  have hmodep : ppuMode (atModeEnd c s) = .vBlank := hmode
  have hdp : (atModeEnd c s).setup.display.lines = s.setup.display.lines := rfl
  rw [hlyp, hlycp, hstatp, hifp, hdp, hmodep] at hspec
  obtain ⟨hio, hly, hm, hstat, hif⟩ := hspec
  generalize leaveVBlankLine (atModeEnd c s) = t at *
  refine ⟨t, ppuAdvance_one hon (hcyc ▸ hle) ht ?_, fun hn => ⟨?_, ?_⟩, fun hn => ⟨?_, ?_⟩, ?_, ?_,
    fun j hj hj8 => ?_, ?_, fun n hn => hio.io_eq (mem_displayBytes hn), fun j hj hj8 => ?_⟩
  · have hppu : t.ppu.cyc = s.ppu.cyc + c - modeCycles s (ppuMode s) := congrArg (·.ppu.cyc) hframe
    have hsetup : t.setup = s.setup := by rw [hframe]; rfl
    rw [hppu, hcyc, hm]
    split
    · show _ < t.setup.display.oam
      rw [hsetup]
      omega
    · show _ < t.setup.display.line
      rw [hsetup]
      omega
  · rw [hly, hv, if_neg (by omega)]
    exact next_line_toNat (by omega)
  · rw [hm, if_neg (by omega)]
  · rw [hly, hv, if_pos hn]
  · rw [hm, if_pos hn]
  · rw [hstat 2 (by decide) (by decide), if_pos rfl, decide_eq_true_iff, hly]
  · rw [hif 1 (by decide), hly]
    simp
  · rw [hif j hj8, beq_false_of_ne hj]
    simp
  · rw [← hcyc]
    exact hframe
  · rw [hstat j hj8 (by omega), if_neg (by omega)]

end

/-- Settles O51: one transition by the mode that ends. -/
theorem displayModesFollowTheSchedule : Obligations.DisplayModesFollowTheSchedule := by
  intro s c hcan hd hlegal
  have hw : s.mem.io.wf = true := by
    simp only [Mems.canonical, Bool.and_eq_true] at hcan
    tauto
  refine ⟨ppuAdvance_off, fun hon => ⟨ppuAdvance_idle hon, oamSearch_ends hw hon, pixelTransfer_ends hw hon,
    hBlank_ends hw hd hlegal hon, vBlank_ends hw hd hon⟩⟩

end Sys2Proof.Claims
end

section
/-! PROOFS. Rendering: a scanline writes its row, every pixel composed as R430 to R444 say. -/

namespace Sys2Proof.Machine

/-! ### The frame by rows (R46) -/

theorem lookup_putRow_self (row : Nat) (pixels : List Rgba) (f : Frame) : (putRow row pixels f).lookup row = some pixels := by
  induction f with
  | nil => simp [putRow]
  | cons r rest ih =>
    obtain ⟨i, old⟩ := r
    unfold putRow
    split
    · simp
    · split
      · simp
      · next hne => rw [List.lookup_cons, beq_false_of_ne hne, ih]

theorem lookup_putRow_other {row row' : Nat} (h : row' ≠ row) (pixels : List Rgba) (f : Frame) :
    (putRow row pixels f).lookup row' = f.lookup row' := by
  have hb : (row' == row) = false := beq_false_of_ne h
  induction f with
  | nil => simp [putRow, List.lookup_cons, hb]
  | cons r rest ih =>
    obtain ⟨i, old⟩ := r
    unfold putRow
    split
    · rw [List.lookup_cons, hb]
    · split
      · next heq => rw [List.lookup_cons, List.lookup_cons, ← heq, hb]
      · rw [List.lookup_cons, List.lookup_cons, ih]

theorem framePixel_putRow_other {row row' : Nat} (h : row' ≠ row) (pixels : List Rgba) (f : Frame) (px : Nat) :
    framePixel (putRow row pixels f) row' px = framePixel f row' px := by
  simp only [framePixel, lookup_putRow_other h]

theorem framePixel_putRow_self (row : Nat) (pixels : List Rgba) (f : Frame) {px : Nat} (h : px < pixels.length) :
    framePixel (putRow row pixels f) row px = pixels[px] := by
  simp only [framePixel, lookup_putRow_self]
  exact List.getD_eq_getElem _ _ h

/-! ### The parts of a rendered line -/

variable (s : State) (line : Nat)

theorem renderScanline_frame_off (h : s.setup.display.screenH ≤ line) :
    (renderScanline line s).ppu.frame = s.ppu.frame := if_neg (Nat.not_lt.mpr h)

theorem renderScanline_frame_on {line : Nat} (h : line < s.setup.display.screenH) :
    (renderScanline line s).ppu.frame = putRow line
      ((List.range s.setup.display.screenW).map fun px => spritesOver s line px (layerPixel s line px)) s.ppu.frame := by
  refine (if_pos h).trans ?_
  rw [List.map_map]
  rfl

theorem renderScanline_linebg :
    (renderScanline line s).ppu.linebg =
      (List.range s.setup.display.screenW).map fun px => (layerPixel s line px).1 := by
  show List.map _ (List.map _ _) = _
  rw [List.map_map]
  rfl

/-- The row's pixel is what the sprite pass makes of the layers. -/
theorem framePixel_renderScanline {line : Nat} (h : line < s.setup.display.screenH) {px : Nat}
    (hpx : px < s.setup.display.screenW) :
    framePixel (renderScanline line s).ppu.frame line px = spritesOver s line px (layerPixel s line px) := by
  rw [renderScanline_frame_on s h, framePixel_putRow_self _ _ _ (by simpa using hpx), List.getElem_map, List.getElem_range]

theorem framePixel_renderScanline_other {row : Nat} (h : row ≠ line) (px : Nat) :
    framePixel (renderScanline line s).ppu.frame row px = framePixel s.ppu.frame row px := by
  by_cases hline : line < s.setup.display.screenH
  · rw [renderScanline_frame_on s hline, framePixel_putRow_other h]
  · rw [renderScanline_frame_off s line (Nat.not_lt.mp hline)]

theorem linebgAt_renderScanline {px : Nat} (hpx : px < s.setup.display.screenW) :
    linebgAt (renderScanline line s).ppu px = (layerPixel s line px).1 := by
  rw [linebgAt, renderScanline_linebg, List.getD_eq_getElem _ _ (by simpa using hpx), List.getElem_map,
    List.getElem_range]

/-! ### The first of the drawing entries (R435) -/

/-- Entries from `k - 1` down to 0, each that draws replacing the colour. -/
def drawEntries (draws : Nat → Option Rgba) (k : Nat) (below : Rgba) : Rgba :=
  (List.range k).reverse.foldl (fun colour n => (draws n).getD colour) below

theorem drawEntries_succ (draws : Nat → Option Rgba) (k : Nat) (below : Rgba) :
    drawEntries draws (k + 1) below = drawEntries draws k ((draws k).getD below) := by
  simp [drawEntries, List.range_succ]

theorem drawEntries_none {draws : Nat → Option Rgba} {k : Nat} (below : Rgba) (h : ∀ m, m < k → draws m = none) :
    drawEntries draws k below = below := by
  induction k with
  | zero => rfl
  | succ k ih => rw [drawEntries_succ, h k (Nat.lt_succ_self k), Option.getD_none, ih fun m hm => h m (by omega)]

/-- The lowest-numbered entry that draws wins. -/
theorem drawEntries_first {draws : Nat → Option Rgba} {k n : Nat} {colour : Rgba} (below : Rgba) (hn : n < k)
    (hdraws : draws n = some colour) (hfirst : ∀ m, m < n → draws m = none) : drawEntries draws k below = colour := by
  induction k generalizing below with
  | zero => omega
  | succ k ih =>
    rw [drawEntries_succ]
    by_cases hk : n = k
    · subst hk
      rw [hdraws, Option.getD_some, drawEntries_none _ hfirst]
    · exact ih _ (by omega)

theorem spritesOver_off {px : Nat} {below : BgInfo × Rgba} (h : (lcdc s).getLsbD 1 = false) :
    spritesOver s line px below = below.2 := if_neg (Bool.eq_false_iff.mp h)

theorem spritesOver_on {px : Nat} {below : BgInfo × Rgba} (h : (lcdc s).getLsbD 1 = true) :
    spritesOver s line px below = drawEntries (spritePixel s line px below.1) 40 below.2 := if_pos h

end Sys2Proof.Machine

namespace Sys2Proof.Claims

open Sys2Proof.Machine

/-! ### Tiles (R433) -/

theorem tileIndex_iff (s : State) (bank off r k : Nat) (idx : BitVec 2) :
    tileIndex s (bank * 0x2000 + off) r k idx ↔ idx = tilePixel s bank off r k := by
  have hbits : ∀ a b : Bool, (BitVec.ofBool a ++ BitVec.ofBool b : BitVec 2).toNat = 2 * a.toNat + b.toNat := by decide
  rw [tileIndex, ← BitVec.toNat_inj, tilePixel, hbits, vramAt, vramAt]
  simp only [Nat.add_assoc]

theorem tileOffsetBg_eq (s : State) (t : Byte) :
    (tileOffsetBg s t : Int) = if (lcdc s).getLsbD 4 then (t.toNat : Int) * 16 else 0x1000 + t.toInt * 16 := by
  have ht := t.isLt
  unfold tileOffsetBg
  rw [BitVec.toInt_eq_toNat_cond]
  split
  · omega
  · split <;> split <;> omega

/-! ### Colours (R443, R444) -/

theorem shadeOf_iff (palette : Byte) (idx : BitVec 2) (colour : Rgba) :
    shadeOf palette idx colour ↔ colour = dmgColour palette idx := by
  have hshade : (palette.extractLsb' (2 * idx.toNat) 2).toNat = palette.toNat / 4 ^ idx.toNat % 4 := by
    rw [BitVec.extractLsb'_toNat, Nat.shiftRight_eq_div_pow, Nat.pow_mul]
  constructor
  · rintro ⟨shade, h, rfl⟩
    rw [dmgColour, BitVec.eq_of_toNat_eq (h.trans hshade.symm)]
  · rintro rfl
    exact ⟨_, hshade, rfl⟩

theorem expand5_toNat (v : BitVec 5) : (expand5 v).toNat = v.toNat * 8 + v.toNat / 4 := by
  revert v
  decide

/-- The three channels of a 15-bit colour. -/
theorem channels_toNat (hi lo : Byte) :
    ((hi ++ lo : Word).extractLsb' 0 5).toNat = (lo.toNat + 256 * hi.toNat) % 32 ∧
      ((hi ++ lo : Word).extractLsb' 5 5).toNat = (lo.toNat + 256 * hi.toNat) / 32 % 32 ∧
      ((hi ++ lo : Word).extractLsb' 10 5).toNat = (lo.toNat + 256 * hi.toNat) / 1024 % 32 := by
  have hw : (hi ++ lo : Word).toNat = lo.toNat + 256 * hi.toNat := by
    rw [append_toNat]
    omega
  simp only [BitVec.extractLsb'_toNat, Nat.shiftRight_eq_div_pow, hw]
  exact ⟨by norm_num, by norm_num, by norm_num⟩

/-- The word a colour palette memory holds for an index of a palette. -/
def colourWord (memory : Memory) (p : BitVec 3) (idx : BitVec 2) : Word :=
  Memory.get memory (p.toNat * 8 + idx.toNat * 2 + 1) ++ Memory.get memory (p.toNat * 8 + idx.toNat * 2)

theorem cgbColour_corrected {s : State} (h : s.setup.colorCorrection = true) (memory : Memory) (p : BitVec 3)
    (idx : BitVec 2) {r g b : BitVec 5} (hr : r = (colourWord memory p idx).extractLsb' 0 5)
    (hg : g = (colourWord memory p idx).extractLsb' 5 5) (hb : b = (colourWord memory p idx).extractLsb' 10 5) :
    cgbColour s memory p idx = ⟨(Config.colorCorrect r g b).1, (Config.colorCorrect r g b).2.1,
      (Config.colorCorrect r g b).2.2, 0xFF⟩ := by
  rw [hr, hg, hb]
  exact if_pos h

theorem cgbColour_plain {s : State} (h : s.setup.colorCorrection = false) (memory : Memory) (p : BitVec 3)
    (idx : BitVec 2) {r g b : BitVec 5} (hr : r = (colourWord memory p idx).extractLsb' 0 5)
    (hg : g = (colourWord memory p idx).extractLsb' 5 5) (hb : b = (colourWord memory p idx).extractLsb' 10 5) :
    cgbColour s memory p idx = ⟨expand5 r, expand5 g, expand5 b, 0xFF⟩ := by
  rw [hr, hg, hb]
  exact if_neg (Bool.eq_false_iff.mp h)

theorem colourOf_iff (s : State) (memory : Memory) (p : BitVec 3) (idx : BitVec 2) (colour : Rgba) :
    colourOf s memory p idx colour ↔ colour = cgbColour s memory p idx := by
  obtain ⟨hR, hG, hB⟩ := channels_toNat (Memory.get memory (p.toNat * 8 + idx.toNat * 2 + 1))
    (Memory.get memory (p.toNat * 8 + idx.toNat * 2))
  constructor
  · rintro ⟨w, r, g, b, rfl, hr, hg, hb, halpha, hplain, hcorrected⟩
    have hr := BitVec.eq_of_toNat_eq (hr.trans hR.symm)
    have hg := BitVec.eq_of_toNat_eq (hg.trans hG.symm)
    have hb := BitVec.eq_of_toNat_eq (hb.trans hB.symm)
    obtain ⟨red, green, blue, alpha⟩ := colour
    dsimp only at halpha hplain hcorrected
    cases hc : s.setup.colorCorrection with
    | true =>
      rw [cgbColour_corrected hc memory p idx hr hg hb, ← hcorrected hc]
      exact congrArg (Rgba.mk red green blue) halpha
    | false =>
      obtain ⟨hred, hgreen, hblue⟩ := hplain hc
      rw [cgbColour_plain hc memory p idx hr hg hb, BitVec.eq_of_toNat_eq (hred.trans (expand5_toNat r).symm),
        BitVec.eq_of_toNat_eq (hgreen.trans (expand5_toNat g).symm),
        BitVec.eq_of_toNat_eq (hblue.trans (expand5_toNat b).symm)]
      exact congrArg (Rgba.mk _ _ _) halpha
  · rintro rfl
    refine ⟨_, _, _, _, rfl, hR, hG, hB, ?_, fun hc => ?_, fun hc => ?_⟩
    · cases hc : s.setup.colorCorrection with
      | true => rw [cgbColour_corrected hc memory p idx rfl rfl rfl]
      | false => rw [cgbColour_plain hc memory p idx rfl rfl rfl]
    · rw [cgbColour_plain hc memory p idx rfl rfl rfl]
      exact ⟨expand5_toNat _, expand5_toNat _, expand5_toNat _⟩
    · rw [cgbColour_corrected hc memory p idx rfl rfl rfl]
      rfl

theorem backgroundColour_bgColour (s : State) (p : BitVec 3) (idx : BitVec 2) :
    backgroundColour s p idx (bgColour s p idx) := by
  refine ⟨fun h => ?_, fun h => ?_⟩
  · rw [colourOf_iff, bgColour, if_pos h]
  · rw [shadeOf_iff, bgColour, if_neg (Bool.eq_false_iff.mp h)]

theorem lowBits_toNat (attr : Byte) : (attr.extractLsb' 0 3).toNat = attr.toNat % 8 := by
  rw [BitVec.extractLsb'_toNat, Nat.shiftRight_zero]

theorem objectColour_iff (s : State) (attr : Byte) (idx : BitVec 2) (colour : Rgba) :
    objectColour s attr idx colour ↔ colour = objColour s attr idx := by
  cases hcgb : isCgb s with
  | true =>
    rw [objColour, if_pos hcgb, ← colourOf_iff]
    constructor
    · rintro ⟨hc, -⟩
      obtain ⟨p, hp, hcolour⟩ := hc hcgb
      rwa [BitVec.eq_of_toNat_eq (hp.trans (lowBits_toNat attr).symm)] at hcolour
    · exact fun h => ⟨fun _ => ⟨_, lowBits_toNat attr, h⟩, fun hno => absurd (hno.symm.trans hcgb) (by decide)⟩
  | false =>
    have hno : ¬isCgb s = true := Bool.eq_false_iff.mp hcgb
    rw [objColour, if_neg hno, ← shadeOf_iff]
    exact ⟨fun h => h.2 hcgb, fun h => ⟨fun hyes => absurd hyes hno, fun _ => h⟩⟩

/-! ### The layers (R431 to R434, R437, R440) -/

/-- The palette of a map point. -/
def mapPalette (s : State) (base x y : Nat) : BitVec 3 :=
  (if isCgb s then vramAt s 1 (base + y / 8 * 32 + x / 8) else 0).extractLsb' 0 3

theorem mul_bankSize (b : Bool) : (if b then 1 else 0) * 0x2000 = if b then 0x2000 else 0 := by
  cases b <;> rfl

theorem vramAt_zero (s : State) (off : Nat) : vramAt s 0 off = Memory.get s.mem.vram off := by
  rw [vramAt, Nat.zero_mul, Nat.zero_add]

theorem vramAt_one (s : State) (off : Nat) : vramAt s 1 off = Memory.get s.mem.vram (0x2000 + off) := by
  rw [vramAt, Nat.one_mul]

theorem mapPixel_shows (s : State) (base x y : Nat) :
    mapShows s base x y (mapPixel s base x y).1.index (mapPixel s base x y).1.prio (mapPalette s base x y) ∧
      backgroundColour s (mapPalette s base x y) (mapPixel s base x y).1.index (mapPixel s base x y).2 := by
  refine ⟨⟨vramAt s 0 (base + y / 8 * 32 + x / 8), _, _, vramAt_zero .., ?_, ?_, (tileIndex_iff s _ _ _ _ _).mpr rfl, rfl,
    lowBits_toNat _⟩, backgroundColour_bgColour ..⟩
  · rw [vramAt_one]
  · rw [Nat.cast_add, tileOffsetBg_eq, mul_bankSize]
    push_cast
    rfl

theorem backgroundOn_iff (s : State) : backgroundOn s = true ↔ backgroundShown s := by
  rw [backgroundOn, Bool.or_eq_true, backgroundShown]

theorem windowCovers_iff (s : State) (line px : Nat) : windowCovers s line px = true ↔ windowShown s line px := by
  simp only [windowCovers, windowShown, Bool.and_eq_true, decide_eq_true_eq, backgroundOn_iff, and_assoc]
  rfl

theorem layerPixel_shows (s : State) (line px : Nat) :
    layerShows s line px (layerPixel s line px).1.index (layerPixel s line px).1.prio (layerPixel s line px).2 := by
  refine ⟨fun hw => ?_, fun hw hb => ?_, fun hb => ?_⟩
  · rw [layerPixel, if_pos ((windowCovers_iff s line px).mpr hw)]
    exact ⟨_, mapPixel_shows ..⟩
  · rw [layerPixel, if_neg fun h => hw ((windowCovers_iff s line px).mp h), if_pos ((backgroundOn_iff s).mpr hb)]
    exact ⟨_, mapPixel_shows ..⟩
  · have hcgb : isCgb s = false := Bool.eq_false_iff.mpr fun h => hb (.inl h)
    rw [layerPixel, if_neg fun h => hb ((windowCovers_iff s line px).mp h).2.1,
      if_neg fun h => hb ((backgroundOn_iff s).mp h)]
    refine ⟨rfl, rfl, ?_⟩
    rw [blankColour, hcgb]
    rfl

/-! ### The objects (R435, R436, R441) -/

section
variable (s : State) (line px n : Nat)

/-- Object entry `n` covers the pixel of the line. -/
def spriteCovers : Prop :=
  (Memory.get s.mem.oam (4 * n)).toNat ≤ line + 16 ∧
    line + 16 < (Memory.get s.mem.oam (4 * n)).toNat + spriteHeight s ∧
    (Memory.get s.mem.oam (4 * n + 1)).toNat ≤ px + 8 ∧ px < (Memory.get s.mem.oam (4 * n + 1)).toNat

/-- The flags byte of object entry `n`. -/
def spriteAttr : Byte := Memory.get s.mem.oam (4 * n + 3)

/-- The colour index object entry `n` has at the pixel. -/
def spriteIndex : BitVec 2 :=
  tilePixel s (if isCgb s && (spriteAttr s n).getLsbD 3 then 1 else 0)
    (tileOffsetObj (if spriteHeight s = 16 then Memory.get s.mem.oam (4 * n + 2) &&& 0xFE
      else Memory.get s.mem.oam (4 * n + 2)))
    (if (spriteAttr s n).getLsbD 6 then spriteHeight s - 1 - (line + 16 - (Memory.get s.mem.oam (4 * n)).toNat)
      else line + 16 - (Memory.get s.mem.oam (4 * n)).toNat)
    (if (spriteAttr s n).getLsbD 5 then 7 - (px + 8 - (Memory.get s.mem.oam (4 * n + 1)).toNat)
      else px + 8 - (Memory.get s.mem.oam (4 * n + 1)).toNat)

variable {s line px n}

theorem spritePixel_eq_some {bg : BgInfo} {colour : Rgba} :
    spritePixel s line px bg n = some colour ↔
      spriteCovers s line px n ∧ spriteIndex s line px n ≠ 0 ∧ spriteHidden s (spriteAttr s n) bg = false ∧
        colour = objColour s (spriteAttr s n) (spriteIndex s line px n) := by
  by_cases hc : spriteCovers s line px n
  · have heq : spritePixel s line px bg n = if spriteIndex s line px n = 0 then none
        else if spriteHidden s (spriteAttr s n) bg then none
        else some (objColour s (spriteAttr s n) (spriteIndex s line px n)) := if_pos hc
    rw [heq]
    by_cases h0 : spriteIndex s line px n = 0
    · simp [h0]
    · cases hh : spriteHidden s (spriteAttr s n) bg with
      | true => simp
      | false => simp [hc, eq_comm]
  · have heq : spritePixel s line px bg n = none := if_neg hc
    simp [heq, hc]

/-- The tile of an object, as the offset of its bytes. -/
theorem objectTile (b : Bool) (h : Nat) (t : Byte) :
    (if b then 1 else 0) * 0x2000 + tileOffsetObj (if h = 16 then t &&& 0xFE else t) =
      (if b then 0x2000 else 0) + (if h = 16 then t.toNat / 2 * 2 else t.toNat) * 16 := by
  have heven : ∀ t : Byte, (t &&& 0xFE).toNat = t.toNat / 2 * 2 := by decide
  rw [mul_bankSize, tileOffsetObj]
  by_cases h16 : h = 16
  · rw [if_pos h16, if_pos h16, heven]
  · rw [if_neg h16, if_neg h16]

theorem objectCovers_iff {attr : Byte} {idx : BitVec 2} :
    objectCovers s line px n attr idx ↔
      spriteCovers s line px n ∧ attr = spriteAttr s n ∧ idx = spriteIndex s line px n := by
  constructor
  · rintro ⟨h, y, x, t, rfl, rfl, rfl, rfl, rfl, hy, hbelow, hx, hright, htile⟩
    rw [← objectTile, tileIndex_iff] at htile
    exact ⟨⟨hy, hbelow, hx, hright⟩, rfl, htile⟩
  · rintro ⟨⟨hy, hbelow, hx, hright⟩, rfl, rfl⟩
    refine ⟨spriteHeight s, _, _, _, rfl, rfl, rfl, rfl, rfl, hy, hbelow, hx, hright, ?_⟩
    rw [← objectTile, tileIndex_iff]
    rfl

theorem spriteHidden_eq_false {attr : Byte} {idx : BitVec 2} {prio : Bool} :
    spriteHidden s attr ⟨idx, prio⟩ = false ↔ ¬behindBackground s attr idx prio := by
  rw [← Bool.not_eq_true, not_iff_not, spriteHidden, behindBackground]
  by_cases h0 : idx = 0
  · simp [h0]
  · cases hcgb : isCgb s with
    | true => simp
    | false => simp

/-- An object entry draws a colour exactly where the sprite pass has one for it. -/
theorem objectDraws_iff {idx : BitVec 2} {prio : Bool} {colour : Rgba} :
    objectDraws s line px idx prio n colour ↔ n < 40 ∧ spritePixel s line px ⟨idx, prio⟩ n = some colour := by
  rw [objectDraws, spritePixel_eq_some, spriteHidden_eq_false]
  refine and_congr_right fun _ => ⟨?_, ?_⟩
  · rintro ⟨attr, i, hcovers, hne, hshown, hcolour⟩
    obtain ⟨hc, rfl, rfl⟩ := objectCovers_iff.mp hcovers
    exact ⟨hc, hne, hshown, (objectColour_iff ..).mp hcolour⟩
  · rintro ⟨hc, hne, hshown, hcolour⟩
    exact ⟨_, _, objectCovers_iff.mpr ⟨hc, rfl, rfl⟩, hne, hshown, (objectColour_iff ..).mpr hcolour⟩

end

/-- Settles O52: the row's pixel is the first drawing object's, else the layers'. -/
theorem renderingWritesOneRow : Obligations.RenderingWritesOneRow := by
  intro s line
  refine ⟨rfl, ?_, fun row px h => framePixel_renderScanline_other s line h px, renderScanline_frame_off s line,
    fun px hpx => ⟨_, _, _, layerPixel_shows s line px, linebgAt_renderScanline s line hpx, fun hline => ?_⟩⟩
  · rw [renderScanline_linebg, List.length_map, List.length_range]
  · rw [framePixel_renderScanline s hline hpx]
    have hnone : ∀ m, m < 40 → (∀ colour, ¬objectDraws s line px (layerPixel s line px).1.index
        (layerPixel s line px).1.prio m colour) → spritePixel s line px (layerPixel s line px).1 m = none := by
      intro m hm hno
      exact Option.eq_none_iff_forall_ne_some.mpr fun colour h => hno colour (objectDraws_iff.mpr ⟨hm, h⟩)
    refine ⟨fun h => ?_, fun hon n colour hdraws hfirst => ?_⟩
    · cases hon : (lcdc s).getLsbD 1 with
      | false => exact spritesOver_off s line hon
      | true =>
        rw [spritesOver_on s line hon]
        refine drawEntries_none _ fun m hm => hnone m hm fun colour => ?_
        exact h.resolve_left (by rw [hon]; decide) m colour
    · obtain ⟨hn, hsome⟩ := objectDraws_iff.mp hdraws
      rw [spritesOver_on s line hon]
      exact drawEntries_first _ hn hsome fun m hm => hnone m (by omega) (hfirst m hm)

end Sys2Proof.Claims
end
